-- ==== Sys2Proof/Word.lean ====
section
/-! DEFINITION. The word types of the block and their plainest arithmetic (00_scope.md rules R12, R13). -/

namespace Sys2Proof

/-- A byte is 8 bits (rule R13). -/
abbrev Byte := BitVec 8

/-- An identifier, a table key or a hash counter: 32 bits (rules R8, R28, R151). -/
abbrev Word32 := BitVec 32

/-- A value of the node's free-running tick count, one tick per millisecond, `TIME_BITS = 32` bits, wrapping (rules R11, R12). -/
abbrev Tick := BitVec 32

/-- The logical-time distance `u32(now - then)` as a number of milliseconds (42_link_stats_timeout.md, opening paragraph). -/
def elapsed (now past : Tick) : Nat := (now - past).toNat

end Sys2Proof
end

