-- ==== Sys2Proof/Config.lean ====
section
/-! DEFINITION. What an implementation fixes (the parameters of 00_scope.md rule R10, left OPEN by 92_eei_decisions.md D48 to
D56), the types of the transport's answers (44_config_and_host.md rule R252), and the free values: an uninterpreted constant
for every answer of the transport that the outside world has not supplied. -/

namespace Sys2Proof

/-- The answer of the FEC black box `FecDecode` (rule R10). -/
inductive FecVerdict where
  | clean
  | corrected (data : List Byte)
  | uncorrectable
  deriving DecidableEq, Repr, Inhabited

/-- The parameters of rule R10, each with the constraint the rules need (rule R10, 92_eei_decisions.md section 6) carried as a proof.

The `:=` values are no claim about the hardware: Lean asks that a type have a member before it accepts a constant of that type
without a body, and they are that member. `Config.params` below is not equal to it by anything Lean can prove. -/
structure Params where
  /-- `PPM_MIN_US`. -/
  ppmMinUs : Nat := 1000
  /-- `PPM_MAX_US`. -/
  ppmMaxUs : Nat := 2020
  ppmMin_lt_max : ppmMinUs < ppmMaxUs := by decide
  ppmMax_lt : ppmMaxUs < 65536 := by decide
  /-- `NUM_PPM_CH - 1`: the channels after the first, so that `NUM_PPM_CH` lies in 1 to 8 by its type. -/
  morePpmCh : Fin 8 := 7
  /-- `FEC_NPARITY`. -/
  fecNparity : Nat := 1
  fecNparity_pos : 1 ≤ fecNparity := by decide
  /-- `FecEncode`: exactly `FEC_NPARITY` bytes (rule R250). -/
  fecEncode : List Byte → List Byte := fun _ => [0]
  fecEncode_length : ∀ b, (fecEncode b).length = fecNparity := by intro _; rfl
  /-- `FecDecode` on data followed by parity; corrected data has the length of the data part (rule R10). -/
  fecDecode : List Byte → FecVerdict := fun _ => .clean
  fecDecode_length : ∀ buf d, fecDecode buf = .corrected d → d.length + fecNparity = buf.length := by
    intro _ _ h; cases h
  /-- `DIGEST_LEN`. -/
  digestLen : Nat := 1
  digestLen_pos : 1 ≤ digestLen := by decide
  /-- `KeyedHash key counter`. -/
  keyedHash : Word32 → Word32 → List Byte := fun _ _ => [0]
  keyedHash_length : ∀ k c, (keyedHash k c).length = digestLen := by intro _ _; rfl
  /-- `DATARATES`, each member by the number `CFG.SET` names it with. -/
  datarates : List Word32 := [9600#32]
  datarates_9600 : 9600#32 ∈ datarates := by decide
  /-- `guard(dr)`. -/
  guardOf : Word32 → Nat := fun _ => 0
  /-- `spacing(dr)`. -/
  spacingOf : Word32 → Nat := fun _ => 1
  spacing_pos : ∀ d, 1 ≤ spacingOf d := by intro _; decide
  /-- `preambleOffset(dr)` in milliseconds. -/
  preambleOffsetOf : Word32 → Nat := fun _ => 0
  /-- `maxPacketLenOf(dr)`, 1 to 255. -/
  maxPacketLenOf : Word32 → BitVec 8 := fun _ => 1#8
  maxPacketLen_pos : ∀ d, 1 ≤ (maxPacketLenOf d).toNat := by intro _; decide
  /-- `CONNECT_TIMEOUT_MS`. -/
  connectTimeoutMs : Nat := 1
  connectTimeout_pos : 1 ≤ connectTimeoutMs := by decide
  /-- `SUPERVISOR_TIMEOUT_MS`. -/
  supervisorTimeoutMs : Nat := 1
  supervisorTimeout_pos : 1 ≤ supervisorTimeoutMs := by decide
  /-- `EVENT_QUEUE_CAP`. -/
  eventQueueCap : Nat := 1
  eventQueueCap_pos : 1 ≤ eventQueueCap := by decide
  /-- `STREAM_QUEUE_CAP`. -/
  streamQueueCap : Nat := 0
  /-- `BROADCAST_ID`; no rule reads it (D55). -/
  broadcastId : Word32 := 0
  /-- `LQ_DOWN_THRESHOLD`; used by callers only, no rule reads it (D56). -/
  lqDownThreshold : Int := 0
  deriving Inhabited

/-- `NUM_PPM_CH`, 1 to 8 (rule R10). -/
def Params.numPpmCh (p : Params) : Nat := p.morePpmCh.val + 1

/-- The named property `FecRoundTrip` of 40_packet_codec.md rule R132: a hypothesis wherever a statement needs it, never assumed. -/
def Params.FecRoundTrip (p : Params) : Prop := ∀ b : List Byte, p.fecDecode (b ++ p.fecEncode b) = .clean

/-- The answer of `T.readStatusRegisters()`: `ok = false` when the chip reports a power-on reset. The two register values are
uninterpreted (91_not_in_source.md N19): no rule reads them. -/
structure StatusAnswer where
  ok : Bool
  interruptFlags : Nat := 0
  deviceStatus : Nat := 0
  deriving DecidableEq, Repr, Inhabited

/-- The answer of `T.pollRx()` (rule R252). -/
inductive RxAnswer where
  | moreDataPending (bytes : List Byte)
  | packetComplete (len : BitVec 8) (bytes : List Byte)
  | fail
  deriving DecidableEq, Repr, Inhabited

/-- The answer of `T.pollTx()` (rule R252). -/
inductive TxAnswer where
  | needsMoreData (n : BitVec 8)
  | sent
  | fail
  deriving DecidableEq, Repr, Inhabited

namespace Config

/-- The parameters of this node: no body, so a statement about the machine holds whatever they are. -/
opaque params : Params

/-- Free values: the answer number `k` of each transport call for which no answer was supplied (93_implementation_defined.md row 24,
"any value of the answer type at every call"). -/
opaque freeIdOk : Nat → Bool
opaque freeStatus : Nat → StatusAnswer
opaque freeRx : Nat → RxAnswer
opaque freeTx : Nat → TxAnswer
/-- How many bytes the transport takes at once at `T.armTransmitter` (rules R137, R223). -/
opaque freeTake : Nat → BitVec 8

end Config

end Sys2Proof
end

