-- ==== Sys2Proof/Syntax.lean ====
section
/-! DEFINITION. The enumerations of 30_encoding.md section 2 and the operations of rule R98: one constructor per row of
spec/opcode_table.json, with the operands of that row as typed fields (rule R96). -/

namespace Sys2Proof

/-- `role` (rule R28). -/
inductive Role where
  | peer
  | coordinator
  deriving DecidableEq, Repr

/-- The two byte streams (rules R43, R88). -/
inductive StreamId where
  | primary
  | aux
  deriving DecidableEq, Repr

/-- The outcome code of a receive attempt (rule R90). -/
inductive OutcomeCode where
  | good
  | corrected
  | error
  | failure
  deriving DecidableEq, Repr

/-- The nine events (rule R92). `initializeLink` is the spec's `Initialize`. -/
inductive Event where
  | initializeLink
  | initialized
  | internalInterrupt
  | rxComplete
  | txStart
  | rxMode
  | timeout
  | error
  | fatalError
  deriving DecidableEq, Repr

/-- The nine sequencer states (rule R93). -/
inductive FsmState where
  | uninitialized
  | initializing
  | rxMode
  | rxData
  | txStart
  | txData
  | timeout
  | error
  | fatalError
  deriving DecidableEq, Repr

/-- A PPM sample to send: an element of `ppmTx` (rule R40). -/
inductive TxSample where
  | noInput
  | valid (us : BitVec 16)
  deriving DecidableEq, Repr

/-- A received PPM sample: an element of `ppmRx` (rule R40). -/
inductive RxSample where
  | timeout
  | valid (us : BitVec 16)
  deriving DecidableEq, Repr

/-- The 36 operations (rule R98), operands in the rule's order.

An operand the spec gives a width and no illegal value is a bit vector of that width. The five coded operands `field`, `ch`,
`streamId`, `outcome` and `event` are natural numbers: rule R95 gives values beyond their legal range a fault of their own
(`ST.PUSH 4`, `STREAM.TX 2`, `PPM.SET 8` of 95_test_vectors.md), so such a request exists. -/
inductive Instr where
  -- 0x0_ configuration and callers
  | init
  | cfgSet (field : Nat) (value : BitVec 32)
  | statsGet (now : Tick) (rssi : BitVec 8)
  | ppmSet (ch : Nat) (sample : TxSample)
  | ppmGet (ch : Nat)
  | streamTx (streamId : Nat) (data : List Byte)
  -- 0x1_ packet codec
  | ppmEnc (sample : TxSample)
  | ppmDec (code : BitVec 9)
  | ppmPack (withCsum : Bool)
  | ppmUnpack (bytes : List Byte) (withCsum : Bool)
  | csum (bytes : List Byte)
  | frameBuild
  | frameParse (len : BitVec 8)
  | bufReset
  | bufPush (data : List Byte)
  | bufPop (n : BitVec 8)
  | hdrBuild (destId : Word32) (len : BitVec 8)
  | hdrParse (bytes : List Byte)
  -- 0x2_ scheduler
  | chGen
  | chAt (n : BitVec 32)
  | clkTime (now : Tick)
  | clkSync
  | hopEval (now : Tick)
  | slotTurn (now : Tick)
  -- 0x3_ statistics and timeouts
  | stPush (outcome : Nat)
  | stRead
  | stContact (now : Tick)
  | stIsconn
  | stTochk (now : Tick)
  | txnOpen (now : Tick)
  | txnClose
  | toTxn (now : Tick)
  | toSup (now : Tick)
  -- 0x4_ sequencer
  | evPost (event : Nat)
  | evStep (event : Nat) (now : Tick)
  | loopTick (now : Tick)
  deriving DecidableEq, Repr

/-- The operand ports of the block, each on its own (rule R96: "not packed into a word"). An operation reads the ports its row of
rule R98 lists and no other. `n` names two ports of the spec of different width: `index` is the 32-bit `n` of `CH.AT`, `count` the
8-bit `n` of `BUF.POP`; `data` and `bytes` are the two byte-sequence ports. -/
structure Ports where
  field : Nat := 0
  value : BitVec 32 := 0
  now : Tick := 0
  rssi : BitVec 8 := 0
  ch : Nat := 0
  sample : TxSample := .noInput
  streamId : Nat := 0
  data : List Byte := []
  code : BitVec 9 := 0
  withCsum : Bool := false
  bytes : List Byte := []
  len : BitVec 8 := 0
  count : BitVec 8 := 0
  destId : Word32 := 0
  index : BitVec 32 := 0
  outcome : Nat := 0
  event : Nat := 0
  deriving DecidableEq, Repr

/-- A request to the block: the 8-bit operation code and the values on the operand ports (format `OP8`, rule R96). -/
structure Request where
  op : BitVec 8
  ports : Ports
  deriving DecidableEq, Repr

end Sys2Proof
end

