-- ==== Sys2Proof/WellFormed.lean ====
section
/-! DEFINITION. When every operand of an operation lies in the range its rule gives (30_encoding.md rule R95, the operand lines of
the rules of files 40 to 44). It does not look at the state. -/

namespace Sys2Proof

/-- The legal values of a configuration field (10_state.md rule R28, 44_config_and_host.md rule R241); a field number above 10 has none. -/
def legalCfgValue (p : Params) (field : Nat) (value : BitVec 32) : Bool :=
  match field with
  | 0 => value.toNat ≤ 1                                  -- role
  | 1 | 2 => true                                         -- deviceId, peerId
  | 3 => value ∈ p.datarates                              -- datarate
  | 4 | 5 => value.toNat ≤ 250                            -- minChannel, maxChannel
  | 6 => 1 ≤ value.toNat && value.toNat ≤ 65535           -- packetPeriodMs
  | 7 | 8 | 9 | 10 => value.toNat ≤ 1                     -- oneWayLink, ppmOnly, ppmSend, ppmRecv
  | _ => false

/-- Every operand in its range. -/
def Instr.wf (p : Params) : Instr → Bool
  | .init => true
  | .cfgSet field value => legalCfgValue p field value
  | .statsGet _ _ => true
  | .ppmSet ch _ => ch < p.numPpmCh
  | .ppmGet ch => ch < p.numPpmCh
  | .streamTx streamId _ => streamId ≤ 1
  | .ppmEnc _ => true
  | .ppmDec _ => true
  | .ppmPack _ => true
  | .ppmUnpack bytes withCsum => bytes.length = 1 + p.numPpmCh + withCsum.toNat
  | .csum bytes => bytes.length ≤ 255
  | .frameBuild => true
  | .frameParse _ => true
  | .bufReset => true
  | .bufPush data => 1 ≤ data.length && data.length ≤ 255
  | .bufPop _ => true
  | .hdrBuild _ _ => true
  | .hdrParse bytes => bytes.length = 5
  | .chGen => true
  | .chAt _ => true
  | .clkTime _ => true
  | .clkSync => true
  | .hopEval _ => true
  | .slotTurn _ => true
  | .stPush outcome => outcome ≤ 3
  | .stRead => true
  | .stContact _ => true
  | .stIsconn => true
  | .stTochk _ => true
  | .txnOpen _ => true
  | .txnClose => true
  | .toTxn _ => true
  | .toSup _ => true
  | .evPost event => event ≤ 8
  | .evStep event _ => event ≤ 8
  | .loopTick _ => true

end Sys2Proof
end

