-- ==== Sys2Proof/Decode.lean ====
section
/-! DEFINITION. From a request (an operation code and the operand ports) to an operation or a rejection by name, and back
(30_encoding.md rules R95, R96, R98). -/

namespace Sys2Proof

/-- Why a request is no operation. -/
inductive DecodeError where
  /-- The operation code is not in opcode_table.json (rule R95). -/
  | badOperation (op : BitVec 8)
  deriving DecidableEq, Repr

/-- Rule R98: `match` of each row against the whole of `op` (`mask = 0xFF`). -/
def decode (r : Request) : Except DecodeError Instr :=
  let q := r.ports
  match r.op.toNat with
  | 0x01 => .ok .init
  | 0x02 => .ok (.cfgSet q.field q.value)
  | 0x03 => .ok (.statsGet q.now q.rssi)
  | 0x04 => .ok (.ppmSet q.ch q.sample)
  | 0x05 => .ok (.ppmGet q.ch)
  | 0x06 => .ok (.streamTx q.streamId q.data)
  | 0x10 => .ok (.ppmEnc q.sample)
  | 0x11 => .ok (.ppmDec q.code)
  | 0x12 => .ok (.ppmPack q.withCsum)
  | 0x13 => .ok (.ppmUnpack q.bytes q.withCsum)
  | 0x14 => .ok (.csum q.bytes)
  | 0x15 => .ok .frameBuild
  | 0x16 => .ok (.frameParse q.len)
  | 0x17 => .ok .bufReset
  | 0x18 => .ok (.bufPush q.data)
  | 0x19 => .ok (.bufPop q.count)
  | 0x1A => .ok (.hdrBuild q.destId q.len)
  | 0x1B => .ok (.hdrParse q.bytes)
  | 0x20 => .ok .chGen
  | 0x21 => .ok (.chAt q.index)
  | 0x22 => .ok (.clkTime q.now)
  | 0x23 => .ok .clkSync
  | 0x24 => .ok (.hopEval q.now)
  | 0x25 => .ok (.slotTurn q.now)
  | 0x30 => .ok (.stPush q.outcome)
  | 0x31 => .ok .stRead
  | 0x32 => .ok (.stContact q.now)
  | 0x33 => .ok .stIsconn
  | 0x34 => .ok (.stTochk q.now)
  | 0x35 => .ok (.txnOpen q.now)
  | 0x36 => .ok .txnClose
  | 0x37 => .ok (.toTxn q.now)
  | 0x38 => .ok (.toSup q.now)
  | 0x40 => .ok (.evPost q.event)
  | 0x41 => .ok (.evStep q.event q.now)
  | 0x42 => .ok (.loopTick q.now)
  | _ => .error (.badOperation r.op)

/-- The operation code of an operation (the first column of rule R98). -/
def Instr.opcode : Instr → BitVec 8
  | .init => 0x01
  | .cfgSet _ _ => 0x02
  | .statsGet _ _ => 0x03
  | .ppmSet _ _ => 0x04
  | .ppmGet _ => 0x05
  | .streamTx _ _ => 0x06
  | .ppmEnc _ => 0x10
  | .ppmDec _ => 0x11
  | .ppmPack _ => 0x12
  | .ppmUnpack _ _ => 0x13
  | .csum _ => 0x14
  | .frameBuild => 0x15
  | .frameParse _ => 0x16
  | .bufReset => 0x17
  | .bufPush _ => 0x18
  | .bufPop _ => 0x19
  | .hdrBuild _ _ => 0x1A
  | .hdrParse _ => 0x1B
  | .chGen => 0x20
  | .chAt _ => 0x21
  | .clkTime _ => 0x22
  | .clkSync => 0x23
  | .hopEval _ => 0x24
  | .slotTurn _ => 0x25
  | .stPush _ => 0x30
  | .stRead => 0x31
  | .stContact _ => 0x32
  | .stIsconn => 0x33
  | .stTochk _ => 0x34
  | .txnOpen _ => 0x35
  | .txnClose => 0x36
  | .toTxn _ => 0x37
  | .toSup _ => 0x38
  | .evPost _ => 0x40
  | .evStep _ _ => 0x41
  | .loopTick _ => 0x42

/-- The operands of an operation on their ports; a port the operation does not list is at its rest value. -/
def Instr.onPorts : Instr → Ports
  | .init => {}
  | .cfgSet field value => { field := field, value := value }
  | .statsGet now rssi => { now := now, rssi := rssi }
  | .ppmSet ch sample => { ch := ch, sample := sample }
  | .ppmGet ch => { ch := ch }
  | .streamTx streamId data => { streamId := streamId, data := data }
  | .ppmEnc sample => { sample := sample }
  | .ppmDec code => { code := code }
  | .ppmPack withCsum => { withCsum := withCsum }
  | .ppmUnpack bytes withCsum => { bytes := bytes, withCsum := withCsum }
  | .csum bytes => { bytes := bytes }
  | .frameBuild => {}
  | .frameParse len => { len := len }
  | .bufReset => {}
  | .bufPush data => { data := data }
  | .bufPop n => { count := n }
  | .hdrBuild destId len => { destId := destId, len := len }
  | .hdrParse bytes => { bytes := bytes }
  | .chGen => {}
  | .chAt n => { index := n }
  | .clkTime now => { now := now }
  | .clkSync => {}
  | .hopEval now => { now := now }
  | .slotTurn now => { now := now }
  | .stPush outcome => { outcome := outcome }
  | .stRead => {}
  | .stContact now => { now := now }
  | .stIsconn => {}
  | .stTochk now => { now := now }
  | .txnOpen now => { now := now }
  | .txnClose => {}
  | .toTxn now => { now := now }
  | .toSup now => { now := now }
  | .evPost event => { event := event }
  | .evStep event now => { event := event, now := now }
  | .loopTick now => { now := now }

/-- The request that asks for an operation. -/
def encode (i : Instr) : Request := { op := i.opcode, ports := i.onPorts }

/-- The request whose operation code is `op` and whose operands are zeros: every number 0, every sample `NoInput`, every byte
sequence the shortest legal one of zero bytes (1 for `BUF.PUSH`, 5 for `HDR.PARSE`, `1 + NUM_PPM_CH` for `PPM.UNPACK`, else none). -/
def zeroRequest (op : BitVec 8) : Request :=
  match op.toNat with
  | 0x13 => { op := op, ports := { bytes := List.replicate (1 + Config.params.numPpmCh) 0#8 } }
  | 0x18 => { op := op, ports := { data := [0#8] } }
  | 0x1B => { op := op, ports := { bytes := List.replicate 5 0#8 } }
  | _ => { op := op, ports := {} }

/-- What the decoder reads from an operation code given as the host numbers it: one byte, operand ports at zero. -/
def decodeTableWord (nbits w : Nat) : Option Instr :=
  if 8 ≤ nbits ∧ w < 256 then
    match decode (zeroRequest (BitVec.ofNat 8 w)) with
    | .ok i => some i
    | .error _ => none
  else none

end Sys2Proof
end

