-- ==== Sys2Proof/Machine/State.lean ====
section
/-! DEFINITION. The whole state of one node (10_state.md rules R20 to R50), plain data, and its value after power-on reset
(rules R50, R290); the reasons an operation can be refused (60_exceptions.md rule R271). -/

namespace Sys2Proof.Machine

/-- Why an operation is refused: the five reasons of rule R271, written `fault <Reason>` in the spec's pseudocode. Each is safe: the
machine stops with the state as it was, where the source defines no behaviour. -/
inductive Fault where
  /-- Raised by any operation that reads a configuration field no `CFG.SET` has written (rules R23, R271, R290;
  93_implementation_defined.md row 12; 95_test_vectors.md V-H3). Safe. -/
  | configUnset
  /-- Raised by `FRAME.BUILD` when `maxPacketLen` cannot hold the fixed part of the layout (rules R125, R271). Safe. -/
  | configInvalid
  /-- Raised by `CH.AT`, `HOP.EVAL` and `CLK.SYNC` when `channelCount = 0` (rule R271). Safe. -/
  | noChannels
  /-- Raised by an operation one of whose operands is outside the range its rule gives (rules R95, R271). Safe. -/
  | badOperand
  /-- Raised by the step when the operation code is not in opcode_table.json (rules R95, R271). Safe. -/
  | badOperation
  deriving DecidableEq, Repr

/-- What the model has no meaning for. -/
inductive Refusal where
  /-- Raised by `exec` for an operation that has no meaning yet; no arm does so now. Safe. -/
  | notModelled (mnemonic : String)
  deriving DecidableEq, Repr

/-- `connState`, the connected latch (rule R44). -/
inductive ConnState where
  | disconnected
  | connected
  deriving DecidableEq, Repr

/-- `packetPeriodMs`, 16 bits, 1 to 65535 (rule R28): a divisor of rules R160 and R162, so never 0. -/
@[ext] structure Period where
  ms : BitVec 16
  ms_ne : ms ≠ 0
  deriving DecidableEq, Repr

/-- The packet buffer's cells: offset and byte, offsets strictly rising, no entry that equals what an unlisted offset reads as. -/
abbrev Memory := List Host.Cell

/-- The configuration registers (rule R28). `none` is the spec's own value "unset" (rule R290): the value after power-on of a
register that no `CFG.SET` has written, which `CFG.SET` itself tests (rule R241). -/
structure ConfigRegs where
  role : Option Role
  deviceId : Option Word32
  peerId : Option Word32
  datarate : Option Word32
  minChannel : Option (BitVec 8)
  maxChannel : Option (BitVec 8)
  packetPeriodMs : Option Period
  oneWayLink : Option Bool
  ppmOnly : Option Bool
  ppmSend : Option Bool
  ppmRecv : Option Bool
  maxPacketLen : Option (BitVec 8)
  deriving DecidableEq, Repr

/-- Answers of the transport that the outside world has supplied and no call has consumed, oldest first, one list a call
(rules R99, R252). `take` holds how many bytes `T.armTransmitter` takes at once (rule R223). -/
structure Answers where
  idOk : List Bool
  status : List StatusAnswer
  rx : List RxAnswer
  tx : List TxAnswer
  take : List (BitVec 8)
  deriving DecidableEq, Repr

/-- The values on the result ports after an operation (rules R96, R98), `none` for an operation with no result. -/
inductive Result where
  | none
  | stats (rxGood rxCorrected rxError rxFailure : Nat) (linkQuality : Int) (rssi : BitVec 8) (connected : Bool)
  | sample (sample : RxSample)
  | accepted (count : Nat)
  | code (code : BitVec 9)
  | bytes (bytes : List Byte)
  | ok (ok : Bool)
  | sum (sum : BitVec 8)
  | built (len : BitVec 8) (destId : Word32) (haveData : Bool)
  | parsed (outcome : OutcomeCode) (streamId : Option StreamId) (data : List Byte)
  | data (data : List Byte)
  | header (destId : Word32) (len : BitVec 8)
  | count (count : BitVec 6)
  | channel (channel : BitVec 8)
  | time (t : Tick)
  | skew (skew : BitVec 32)
  | hop (channel : BitVec 8) (changed : Bool)
  | myTurn (myTurn : Bool)
  | counters (good corrected error failure : Nat) (linkQuality : Int)
  | connected (connected : Bool)
  | timedOut (timedOut : Bool)
  | expired (expired : Bool)
  deriving DecidableEq, Repr

/-- What the node does to its surroundings, in the order it does it: the transport calls with their arguments (rule R252) and the
`receivedBytes` callback (rule R246: "a model records it as an output event ... in the trace of the node"). -/
inductive Output where
  | resetAndIdentify
  | configure (deviceId peerId datarate : Word32)
  | readStatusRegisters
  | armReceiver
  | armTransmitter (bytes : List Byte) (destinationId : Word32)
  | pollRx
  | pollTx
  | setChannel (channel : BitVec 8)
  | feed (bytes : List Byte)
  | received (streamId : StreamId) (data : List Byte)
  deriving DecidableEq, Repr

/-- The state of one node, the source's `LinkDevice` (rule R20), in the order of 10_state.md, then the model's own fields. -/
structure State where
  /-- Rule R24. -/
  fsmState : FsmState
  /-- Rule R25, oldest first. -/
  eventQueue : List Event
  /-- Rule R25, a counting signal. -/
  wakeCount : Nat
  /-- Rule R26. -/
  lastEventTimestamp : Tick
  /-- Rule R27. -/
  fatal : Bool
  /-- Rule R28. -/
  cfg : ConfigRegs
  /-- Rule R33. -/
  channelTable : Vector (BitVec 8) 32
  /-- Rule R33, 0 to 32. -/
  channelCount : Fin 33
  /-- Rule R35, 0 to 31. -/
  channelIndex : Fin 32
  /-- Rule R36. -/
  clockSkewMs : BitVec 32
  /-- Rule R38, `STATS_WORDS = 4`. -/
  history : Vector (BitVec 32) 4
  /-- Rule R44. -/
  connState : ConnState
  /-- Rule R45. -/
  lastContactTimestamp : Tick
  /-- Rule R46. -/
  packetStartTimestamp : Tick
  /-- Rule R46. -/
  txnOpen : Bool
  /-- Rule R47. -/
  timeouts : BitVec 32
  /-- Rule R47. -/
  resets : BitVec 32
  /-- Rule R40; the elements at or above `NUM_PPM_CH` do not exist in the block and no operation reaches them. -/
  ppmTx : Vector TxSample 8
  /-- Rule R40; as `ppmTx`. -/
  ppmRx : Vector RxSample 8
  /-- Rule R41: `false` the primary stream is served next, `true` the auxiliary. -/
  streamToggle : Bool
  /-- Rule R42, `pktBuf.bytes[0..254]`. -/
  pktBuf : Memory
  /-- Rule R42, the write cursor. -/
  pktLen : BitVec 8
  /-- Rule R42, the read cursor. -/
  pktRd : BitVec 8
  /-- Rule R42. -/
  txDest : Word32
  /-- Rule R43, `txQueue[Primary]`, oldest first. -/
  txQueuePrimary : List Byte
  /-- Rule R43, `txQueue[Aux]`, oldest first. -/
  txQueueAux : List Byte
  /-- Model's own: the requests issued to the block and not yet started, in the order the agents issue them (rules R6, R22, R68). -/
  requests : List Request
  /-- Model's own: supplied transport answers (rule R252: "its answer is an input of the model"). -/
  answers : Answers
  /-- Model's own: how many free values have been used. -/
  freeCount : Nat
  /-- Model's own: the result ports. -/
  result : Result
  /-- Model's own: the outputs so far, oldest first (rule R246). -/
  trace : List Output
  deriving DecidableEq, Repr

/-- Every configuration register unset (rule R290). -/
def ConfigRegs.unset : ConfigRegs :=
  { role := none, deviceId := none, peerId := none, datarate := none, minChannel := none, maxChannel := none,
    packetPeriodMs := none, oneWayLink := none, ppmOnly := none, ppmSend := none, ppmRecv := none, maxPacketLen := none }

/-- Power-on reset (rules R50, R290). The spec leaves `channelTable`'s entries, the buffer's bytes and `txDest` unspecified and says
no operation reads them; the model's value there is 0 (notes/assumptions/3.md). -/
def State.reset : State :=
  { fsmState := .uninitialized
    eventQueue := []
    wakeCount := 0
    lastEventTimestamp := 0
    fatal := false
    cfg := ConfigRegs.unset
    channelTable := Vector.replicate 32 0
    channelCount := 0
    channelIndex := 0
    clockSkewMs := 0
    history := Vector.replicate 4 0xFFFFFFFF#32
    connState := .disconnected
    lastContactTimestamp := 0
    packetStartTimestamp := 0
    txnOpen := false
    timeouts := 0
    resets := 0
    ppmTx := Vector.replicate 8 .noInput
    ppmRx := Vector.replicate 8 .timeout
    streamToggle := false
    pktBuf := []
    pktLen := 0
    pktRd := 0
    txDest := 0
    txQueuePrimary := []
    txQueueAux := []
    requests := []
    answers := { idOk := [], status := [], rx := [], tx := [], take := [] }
    freeCount := 0
    result := .none
    trace := [] }

end Sys2Proof.Machine
end

