-- ==== Sys2Proof/Machine/Operands.lean ====
section
/-! DEFINITION. The operand forms: the constants of 00_scope.md rules R8 and R11, the numeric codes of 30_encoding.md section 2, the
value of a configuration write, the 9-bit PPM code and its split over two bytes, the additive checksum, the byte order of the
destination ID. -/

namespace Sys2Proof.Machine

/-! ### Constants -/

/-- `CH_MAX` (rule R8). -/
def chMax : Nat := 250
/-- `TABLE_CAP` (rule R8). -/
def tableCap : Nat := 32
/-- Steps of the PPM map between code 1 and code 511 (rule R110). -/
def ppmCodeSteps : Nat := 510
/-- `LQ_BASE` (rule R8). -/
def lqBase : Int := 64
/-- `TXN_TIMEOUT_FACTOR` (rule R8). -/
def txnTimeoutFactor : Nat := 3
/-- `CODES_PER_WORD` (rule R8). -/
def codesPerWord : Nat := 16
/-- A history word of sixteen `STATS_RESET_CODE = 3` codes (rules R11, R38). -/
def historyResetWord : BitVec 32 := 0xFFFFFFFF#32
/-- `HASH_COUNTER_INIT` (rule R11). -/
def hashCounterInit : Word32 := 0#32
/-- `SEL_PRIMARY` (rule R88). -/
def selPrimary : Byte := 0x00#8
/-- `SEL_AUX` (rule R88). -/
def selAux : Byte := 0x01#8

/-! ### Codes -/

/-- Rule R92. -/
def eventCode : Event → Nat
  | .initializeLink => 0
  | .initialized => 1
  | .internalInterrupt => 2
  | .rxComplete => 3
  | .txStart => 4
  | .rxMode => 5
  | .timeout => 6
  | .error => 7
  | .fatalError => 8

/-- Rule R92; a code above 8 names no event. -/
def eventOfCode : Nat → Option Event
  | 0 => some .initializeLink
  | 1 => some .initialized
  | 2 => some .internalInterrupt
  | 3 => some .rxComplete
  | 4 => some .txStart
  | 5 => some .rxMode
  | 6 => some .timeout
  | 7 => some .error
  | 8 => some .fatalError
  | _ => none

/-- Rule R93. -/
def fsmStateCode : FsmState → Nat
  | .uninitialized => 0
  | .initializing => 1
  | .rxMode => 2
  | .rxData => 3
  | .txStart => 4
  | .txData => 5
  | .timeout => 6
  | .error => 7
  | .fatalError => 8

/-- Rule R90. -/
def outcomeBits : OutcomeCode → BitVec 2
  | .good => 0
  | .corrected => 1
  | .error => 2
  | .failure => 3

/-- Rule R90; an operand above 3 is no outcome code. -/
def outcomeOfCode : Nat → Option OutcomeCode
  | 0 => some .good
  | 1 => some .corrected
  | 2 => some .error
  | 3 => some .failure
  | _ => none

/-- Rule R245: 0 `Primary`, 1 `Aux`. -/
def streamOfCode : Nat → Option StreamId
  | 0 => some .primary
  | 1 => some .aux
  | _ => none

/-- Rule R88. -/
def selectorOf : StreamId → Byte
  | .primary => selPrimary
  | .aux => selAux

/-- Rules R88, R130: a selector other than the two is reserved and names no stream. -/
def streamOfSelector (b : Byte) : Option StreamId :=
  if b = selPrimary then some .primary else if b = selAux then some .aux else none

/-- Rule R41: the stream served next. -/
def streamOfToggle (toggle : Bool) : StreamId := if toggle then .aux else .primary

/-! ### The value of a configuration write -/

/-- A legal one-bit value. -/
def oneBit (v : BitVec 32) : Option Bool :=
  if v = 0 then some false else if v = 1 then some true else none

/-- Rule R28: 0 `Peer`, 1 `Coordinator`. -/
def roleOfValue (v : BitVec 32) : Option Role := (oneBit v).map fun b => if b then .coordinator else .peer

/-- A legal channel number, 0 to 250. -/
def channelOfValue (v : BitVec 32) : Option (BitVec 8) :=
  if v.toNat ≤ chMax then some (v.setWidth 8) else none

/-- A legal packet period, 1 to 65535. -/
def periodOfValue (v : BitVec 32) : Option Period :=
  if v.toNat < 65536 then
    if h : v.setWidth 16 ≠ 0 then some ⟨v.setWidth 16, h⟩ else none
  else none

/-- A member of `DATARATES`. -/
def datarateOfValue (p : Params) (v : BitVec 32) : Option Word32 := if v ∈ p.datarates then some v else none

/-- Rules R97, R241: the configuration after writing `value` to register number `field`, with `maxPacketLen` as the side effect of
field 3; none when the field number is above 10 or the value is not a legal value of the field. -/
def writeCfg (p : Params) (c : ConfigRegs) (field : Nat) (value : BitVec 32) : Option ConfigRegs :=
  match field with
  | 0 => (roleOfValue value).map fun v => { c with role := some v }
  | 1 => some { c with deviceId := some value }
  | 2 => some { c with peerId := some value }
  | 3 => (datarateOfValue p value).map fun v =>
      { c with datarate := some v, maxPacketLen := some (p.maxPacketLenOf v) }
  | 4 => (channelOfValue value).map fun v => { c with minChannel := some v }
  | 5 => (channelOfValue value).map fun v => { c with maxChannel := some v }
  | 6 => (periodOfValue value).map fun v => { c with packetPeriodMs := some v }
  | 7 => (oneBit value).map fun v => { c with oneWayLink := some v }
  | 8 => (oneBit value).map fun v => { c with ppmOnly := some v }
  | 9 => (oneBit value).map fun v => { c with ppmSend := some v }
  | 10 => (oneBit value).map fun v => { c with ppmRecv := some v }
  | _ => none

/-! ### PPM codes -/

/-- `clamp(v, lo, hi)` (rule R13). -/
def clampNat (v lo hi : Nat) : Nat := min (max v lo) hi

/-- `D = PPM_MAX_US - PPM_MIN_US`, at least 1 (rule R110). -/
def ppmSpan (p : Params) : Nat := p.ppmMaxUs - p.ppmMinUs

/-- Microseconds to 9-bit code (rule R110). -/
def ppmCodeOf (p : Params) : TxSample → BitVec 9
  | .noInput => 0
  | .valid us =>
      BitVec.ofNat 9 (1 + (clampNat us.toNat p.ppmMinUs p.ppmMaxUs - p.ppmMinUs) * ppmCodeSteps / ppmSpan p)

/-- 9-bit code to microseconds (rule R111). -/
def ppmSampleOf (p : Params) (code : BitVec 9) : RxSample :=
  if code = 0 then .timeout
  else .valid (BitVec.ofNat 16 (p.ppmMinUs + (code.toNat - 1) * ppmSpan p / ppmCodeSteps))

/-- The LSB byte: bit `i` is bit 0 of the code of channel `i`, the bits above the last channel are 0 (rules R64, R86). -/
def lsbNat : List (BitVec 9) → Nat
  | [] => 0
  | c :: cs => c.toNat % 2 + 2 * lsbNat cs

/-- A channel byte: bits 8..1 of the code (rule R86). -/
def channelByte (code : BitVec 9) : Byte := code.extractLsb' 1 8

/-- The code of channel `i` put together again (rule R87). -/
def assembleCode (lsb chByte : Byte) (i : Nat) : BitVec 9 :=
  (chByte.setWidth 9 <<< 1) ||| ((lsb >>> i).setWidth 9 &&& 1#9)

/-! ### Byte sequences -/

/-- The additive checksum: the sum of the bytes modulo 256, 0 for none (rule R118). -/
def checksum : List Byte → BitVec 8
  | [] => 0
  | b :: bs => b + checksum bs

/-- The destination ID in header order, most significant byte first (rules R64, R81). -/
def destIdBytes (d : Word32) : List Byte :=
  [d.extractLsb' 24 8, d.extractLsb' 16 8, d.extractLsb' 8 8, d.extractLsb' 0 8]

/-- The destination ID from its four header bytes (rule R121). -/
def destIdOfBytes (b0 b1 b2 b3 : Byte) : Word32 :=
  (b0.setWidth 32 <<< 24) ||| (b1.setWidth 32 <<< 16) ||| (b2.setWidth 32 <<< 8) ||| b3.setWidth 32

end Sys2Proof.Machine
end

