-- ==== Sys2Proof/Machine/Flags.lean ====
section
/-! DEFINITION. The one-bit results. The block has no condition codes (10_state.md rule R48); its flags are the comparisons of logical
time (60_exceptions.md rule R275), the send-slot test and the tests on the connected latch. -/

namespace Sys2Proof.Machine

/-- The age of the last contact has reached `CONNECT_TIMEOUT_MS` (rule R190: "age exactly equal to the timeout is timed out"). -/
def contactTimedOut (p : Params) (now lastContact : Tick) : Bool := p.connectTimeoutMs ≤ elapsed now lastContact

/-- A transaction open for strictly longer than three packet periods (rule R196). -/
def txnTimedOut (period : Period) (now start : Tick) : Bool :=
  txnTimeoutFactor * period.ms.toNat < elapsed now start

/-- No event taken for strictly longer than `SUPERVISOR_TIMEOUT_MS` (rule R198). -/
def supervisorTimedOut (p : Params) (now lastEvent : Tick) : Bool := p.supervisorTimeoutMs < elapsed now lastEvent

/-- The shared logical clock (rule R157). -/
def logicalTime (role : Role) (skew : BitVec 32) (now : Tick) : Tick :=
  match role with
  | .coordinator => now
  | .peer => now + skew

/-- The send-slot test at logical time `t` (rule R162). -/
def slotTest (oneWay : Bool) (role : Role) (period : Period) (t : Tick) : Bool :=
  let phase := (t - 1#32).toNat
  let pd := period.ms.toNat
  match oneWay, role with
  | true, .coordinator => phase % pd = 0
  | true, .peer => false
  | false, .coordinator => phase % (2 * pd) = 0
  | false, .peer => phase % (2 * pd) = pd

/-- `connected` of rules R188 and R242. -/
def isConnected : ConnState → Bool
  | .connected => true
  | .disconnected => false

/-- The states in which steps 3 to 5 of the driving loop run (rule R216). -/
def linkRunning : FsmState → Bool
  | .rxMode | .rxData | .txStart | .txData => true
  | .uninitialized | .initializing | .timeout | .error | .fatalError => false

/-- An outcome of a valid frame (rules R100, R222). -/
def validOutcome : OutcomeCode → Bool
  | .good | .corrected => true
  | .error | .failure => false

end Sys2Proof.Machine
end

