-- ==== Sys2Proof/Machine/Ops.lean ====
section
/-! DEFINITION. The shared operations over the state: reading configuration, the packet buffer's bytes, the buffer's cursors, the stream
queues, the transport calls, and the sequencer's fault entry and exit. -/

namespace Sys2Proof.Machine

/-! ### Answers and refusals -/

/-- Read a configuration register: unset is refused, never read as a value (rules R23, R271, R290; 93_implementation_defined.md row 12). -/
def need {α : Type} : Option α → Except Fault α
  | some a => .ok a
  | none => .error .configUnset

/-- The outcome of a step from the result of an operation: a refusal writes no state (rule R271). -/
def finish : Except Fault State → Host.Outcome State Fault Refusal
  | .ok s => .next s
  | .error f => .fault f

/-- Put the results of an operation on the result ports. -/
def State.withResult (s : State) (r : Result) : State := { s with result := r }

/-- A fixed file of `n` elements from a rule for each index. -/
def vecOf {α : Type} (n : Nat) (f : Nat → α) : Vector α n := ⟨((List.range n).map f).toArray, by simp⟩

/-! ### The packet buffer's bytes (20_memory.md rules R60, R65) -/

/-- How many cells the buffer has, offsets 0 to 254 (rule R42). -/
def pktCells : Nat := 255

/-- What a cell that nothing has written reads as (rule R42 leaves it open and says no operation reads it; notes/assumptions/3.md). -/
def unwrittenByte : Byte := 0

/-- The byte at offset `a`. -/
def Memory.read : Memory → Nat → Byte
  | [], _ => unwrittenByte
  | (x, v) :: m, a => if x = a then v else Memory.read m a

/-- The buffer after byte `v` is written at offset `a`, in canonical form if it was. -/
def Memory.write : Memory → Nat → Byte → Memory
  | [], a, v => if v = unwrittenByte then [] else [(a, v)]
  | (x, w) :: m, a, v =>
      if a < x then (if v = unwrittenByte then (x, w) :: m else (a, v) :: (x, w) :: m)
      else if a = x then (if v = unwrittenByte then m else (a, v) :: m)
      else (x, w) :: Memory.write m a v

/-- `MemRead(buf, a, n)` (rule R14). -/
def Memory.readRange (m : Memory) (a n : Nat) : List Byte := (List.range n).map fun i => Memory.read m (a + i)

/-- `MemWrite(buf, a, n, v)` (rule R14). -/
def Memory.writeRange : Memory → Nat → List Byte → Memory
  | m, _, [] => m
  | m, a, v :: vs => Memory.writeRange (Memory.write m a v) (a + 1) vs

/-- Offsets strictly rising from `lo`, inside the buffer, no entry that equals what an unlisted offset reads as. -/
def Memory.wfFrom : Nat → Memory → Bool
  | _, [] => true
  | lo, (a, v) :: m => lo ≤ a && a < pktCells && v != unwrittenByte && Memory.wfFrom (a + 1) m

/-- The canonical form. -/
def Memory.wf (m : Memory) : Bool := Memory.wfFrom 0 m

/-! ### Packet buffer (rules R42, R135 to R137) -/

/-- The valid bytes `pktBuf.bytes[0 .. pktLen)`. -/
def pktBytes (s : State) : List Byte := Memory.readRange s.pktBuf 0 s.pktLen.toNat

/-- Rule R136. -/
def bufReset (s : State) : State := { s with pktLen := 0, pktRd := 0 }

/-- Rule R135, for a `maxPacketLen` already read. -/
def bufPush (maxLen : BitVec 8) (data : List Byte) (s : State) : Bool × State :=
  if maxLen.toNat < s.pktLen.toNat + data.length then (false, s)
  else
    (true, { s with
      pktBuf := Memory.writeRange s.pktBuf s.pktLen.toNat data
      pktLen := BitVec.ofNat 8 (s.pktLen.toNat + data.length) })

/-- Rule R137. -/
def bufPop (n : BitVec 8) (s : State) : List Byte × State :=
  let k := min n.toNat (s.pktLen.toNat - s.pktRd.toNat)
  (Memory.readRange s.pktBuf s.pktRd.toNat k, { s with pktRd := BitVec.ofNat 8 (s.pktRd.toNat + k) })

/-- A built frame put in the buffer for the destination (last three lines of rule R125). -/
def loadFrame (payload : List Byte) (dest : Word32) (s : State) : State :=
  { s with
    pktBuf := Memory.writeRange s.pktBuf 0 payload
    pktLen := BitVec.ofNat 8 payload.length
    pktRd := 0
    txDest := dest }

/-! ### Stream queues (rule R43) -/

def txQueue (s : State) : StreamId → List Byte
  | .primary => s.txQueuePrimary
  | .aux => s.txQueueAux

def setTxQueue (s : State) (id : StreamId) (q : List Byte) : State :=
  match id with
  | .primary => { s with txQueuePrimary := q }
  | .aux => { s with txQueueAux := q }

/-! ### Transactions and contacts (rules R186, R193, R194) -/

def txnOpen (now : Tick) (s : State) : State := { s with packetStartTimestamp := now, txnOpen := true }

def txnClose (s : State) : State := { s with txnOpen := false }

def contact (now : Tick) (s : State) : State := { s with lastContactTimestamp := now, connState := .connected }

/-! ### The transport (rule R252): a call is written to the trace, its answer is an input -/

def emit (o : Output) (s : State) : State := { s with trace := s.trace ++ [o] }

/-- The oldest supplied answer, or the next free value when none is supplied. -/
def takeAnswer {α : Type} (supplied : List α) (free : Nat → α) (keep : List α → Answers) (s : State) : α × State :=
  match supplied with
  | a :: rest => (a, { s with answers := keep rest })
  | [] => (free s.freeCount, { s with freeCount := s.freeCount + 1 })

def callResetAndIdentify (s : State) : Bool × State :=
  takeAnswer s.answers.idOk Config.freeIdOk (fun q => { s.answers with idOk := q }) (emit .resetAndIdentify s)

def callReadStatus (s : State) : StatusAnswer × State :=
  takeAnswer s.answers.status Config.freeStatus (fun q => { s.answers with status := q }) (emit .readStatusRegisters s)

def callPollRx (s : State) : RxAnswer × State :=
  takeAnswer s.answers.rx Config.freeRx (fun q => { s.answers with rx := q }) (emit .pollRx s)

def callPollTx (s : State) : TxAnswer × State :=
  takeAnswer s.answers.tx Config.freeTx (fun q => { s.answers with tx := q }) (emit .pollTx s)

/-- `T.armTransmitter(BUF.POP(k), destId)`: `k` is as many bytes as the transport takes at once (rule R223). -/
def callArmTransmitter (dest : Word32) (s : State) : State :=
  let (k, s) := takeAnswer s.answers.take Config.freeTake (fun q => { s.answers with take := q }) s
  let (bytes, s) := bufPop k s
  emit (.armTransmitter bytes dest) s

/-! ### Fault entry and exit (60_exceptions.md rules R267, R268) -/

/-- The three sequencer faults (rule R262). -/
inductive SequencerFault where
  | timeout
  | error
  | fatalError
  deriving DecidableEq, Repr

/-- What is written when a fault event has been taken, after `fsmState` (rule R267): the buffer emptied, the transaction closed, the
matching count or indication set; nothing else is saved. -/
def takeFault (f : SequencerFault) (s : State) : State :=
  let s := txnClose (bufReset s)
  match f with
  | .timeout => { s with timeouts := s.timeouts + 1 }
  | .error => { s with resets := s.resets + 1 }
  | .fatalError => { s with fatal := true }

/-- The event by which the machine leaves the fault state; `FatalError` is never left (rule R268). -/
def leaveFault : SequencerFault → Option Event
  | .timeout => some .rxMode
  | .error => some .initializeLink
  | .fatalError => none

end Sys2Proof.Machine
end

