-- ==== Sys2Proof/Machine/Codec.lean ====
section
/-! DEFINITION. The packet codec's operations, family 0x1_ (40_packet_codec.md). Each meaning is the operation at this node's parameters
`Config.params`; the operation itself takes the parameters as an argument (00_scope.md rule R10). -/

namespace Sys2Proof.Machine

/-! ### PPM sub-frame (rules R86, R115, R116) -/

/-- The codes of the channels, in channel order. -/
def ppmCodes (p : Params) (tx : Vector TxSample 8) : List (BitVec 9) := (tx.toList.take p.numPpmCh).map (ppmCodeOf p)

/-- Rule R115. -/
def ppmPack (p : Params) (tx : Vector TxSample 8) (withCsum : Bool) : List Byte :=
  let codes := ppmCodes p tx
  let bytes := BitVec.ofNat 8 (lsbNat codes) :: codes.map channelByte
  if withCsum then bytes ++ [checksum bytes] else bytes

/-- The sample of channel `i` in a sub-frame (rules R87, R116). -/
def subframeSample (p : Params) (bytes : List Byte) (i : Nat) : RxSample :=
  ppmSampleOf p (assembleCode (bytes.getD 0 0) (bytes.getD (1 + i) 0) i)

/-- Every channel of `ppmRx` written by `f`; what lies above the last channel is no element of the block's file. -/
def setPpmRx (p : Params) (f : Nat → RxSample) (s : State) : State :=
  { s with ppmRx := vecOf 8 fun i => if i < p.numPpmCh then f i else s.ppmRx.toList.getD i .timeout }

/-- The length of a sub-frame (rules R86, R116). -/
def subframeLen (p : Params) (withCsum : Bool) : Nat := 1 + p.numPpmCh + withCsum.toNat

/-- The checksum byte of a sub-frame agrees with its other bytes (rule R116). -/
def checksumOk (p : Params) (bytes : List Byte) : Bool :=
  checksum (bytes.take (1 + p.numPpmCh)) = bytes.getD (1 + p.numPpmCh) 0

/-- Rule R116 on bytes of the right length. -/
def ppmUnpack (p : Params) (bytes : List Byte) (withCsum : Bool) (s : State) : Bool × State :=
  if withCsum && !checksumOk p bytes then (false, setPpmRx p (fun _ => .timeout) s)
  else (true, setPpmRx p (subframeSample p bytes) s)

/-! ### Frames (rules R125, R130) -/

/-- What `FRAME.BUILD` answers besides the new state. -/
structure BuiltFrame where
  len : BitVec 8
  destId : Word32
  haveData : Bool
  deriving DecidableEq, Repr

/-- The fixed part of the multiplexed layout: the sub-frame, the selector, the parity (rule R125 `room`, rule R130 `minLen`). -/
def muxFixedLen (p : Params) (subLen : Nat) : Nat := subLen + 1 + p.fecNparity

/-- Rule R125. -/
def frameBuild (p : Params) (s : State) : Except Fault (BuiltFrame × State) := do
  let ppmSend ← need s.cfg.ppmSend
  let ppmOnly ← need s.cfg.ppmOnly
  let sub := if ppmSend then ppmPack p s.ppmTx ppmOnly else []
  let maxLen ← need s.cfg.maxPacketLen
  if ppmOnly then
    if maxLen.toNat < sub.length then throw .configInvalid
    let dest ← need s.cfg.peerId
    return ({ len := BitVec.ofNat 8 sub.length, destId := dest, haveData := ppmSend }, loadFrame sub dest s)
  else
    if maxLen.toNat < muxFixedLen p sub.length then throw .configInvalid
    let room := maxLen.toNat - muxFixedLen p sub.length
    let sel := streamOfToggle s.streamToggle
    let n := min (txQueue s sel).length room
    let body := sub ++ [selectorOf sel] ++ (txQueue s sel).take n
    let payload := body ++ p.fecEncode body
    let dest ← need s.cfg.peerId
    let s := setTxQueue { s with streamToggle := !s.streamToggle } sel ((txQueue s sel).drop n)
    return ({ len := BitVec.ofNat 8 payload.length, destId := dest, haveData := ppmSend || decide (0 < n) },
      loadFrame payload dest s)

/-- What `FRAME.PARSE` answers besides the new state. -/
structure ParsedFrame where
  outcome : OutcomeCode
  streamId : Option StreamId
  data : List Byte
  deriving DecidableEq, Repr

/-- An attempt that delivers nothing (rules R260, R270). -/
def ParsedFrame.nothing (outcome : OutcomeCode) : ParsedFrame := { outcome := outcome, streamId := none, data := [] }

/-- Step 3 of rule R130 on the body of a multiplexed frame. -/
def deliverBody (p : Params) (ppmRecv : Bool) (outcome : OutcomeCode) (body : List Byte) (s : State) : ParsedFrame × State :=
  let o := if ppmRecv then 1 + p.numPpmCh else 0
  let s := if ppmRecv then (ppmUnpack p (body.take (1 + p.numPpmCh)) false s).2 else s
  match streamOfSelector (body.getD o 0) with
  | some id => ({ outcome := outcome, streamId := some id, data := body.drop (o + 1) }, s)
  | none => (ParsedFrame.nothing outcome, s)

/-- Rule R130 in PPM-only mode, after the length comparison. -/
def parsePpmOnly (p : Params) (ppmRecv : Bool) (buf : List Byte) (s : State) : ParsedFrame × State :=
  if buf.length ≠ (if ppmRecv then p.numPpmCh + 2 else 0) then (ParsedFrame.nothing .failure, s)
  else if ppmRecv then
    let (ok, s) := ppmUnpack p buf true s
    (ParsedFrame.nothing (if ok then .good else .error), s)
  else (ParsedFrame.nothing .good, s)

/-- Rule R130 in multiplexed mode, after the length comparison. -/
def parseMux (p : Params) (ppmRecv : Bool) (buf : List Byte) (s : State) : ParsedFrame × State :=
  if buf.length < muxFixedLen p (if ppmRecv then 1 + p.numPpmCh else 0) then (ParsedFrame.nothing .failure, s)
  else
    match p.fecDecode buf with
    | .clean => deliverBody p ppmRecv .good (buf.take (buf.length - p.fecNparity)) s
    | .corrected d => deliverBody p ppmRecv .corrected d s
    | .uncorrectable => (ParsedFrame.nothing .error, s)

/-- Rule R130. -/
def frameParse (p : Params) (len : BitVec 8) (s : State) : Except Fault (ParsedFrame × State) :=
  if len ≠ s.pktLen then .ok (ParsedFrame.nothing .failure, s)
  else do
    let ppmOnly ← need s.cfg.ppmOnly
    let ppmRecv ← need s.cfg.ppmRecv
    return (if ppmOnly then parsePpmOnly p ppmRecv (pktBytes s) s else parseMux p ppmRecv (pktBytes s) s)

/-! ### The operations -/

/-- `PPM.ENC` (rule R110). -/
def runPpmEnc (p : Params) (sample : TxSample) (s : State) : Except Fault State :=
  .ok (s.withResult (.code (ppmCodeOf p sample)))

/-- `PPM.DEC` (rule R111). -/
def runPpmDec (p : Params) (code : BitVec 9) (s : State) : Except Fault State :=
  .ok (s.withResult (.sample (ppmSampleOf p code)))

/-- `PPM.PACK` (rule R115). -/
def runPpmPack (p : Params) (withCsum : Bool) (s : State) : Except Fault State :=
  .ok (s.withResult (.bytes (ppmPack p s.ppmTx withCsum)))

/-- `PPM.UNPACK` (rule R116). -/
def runPpmUnpack (p : Params) (bytes : List Byte) (withCsum : Bool) (s : State) : Except Fault State :=
  if bytes.length ≠ subframeLen p withCsum then .error .badOperand
  else
    let (ok, s) := ppmUnpack p bytes withCsum s
    .ok (s.withResult (.ok ok))

/-- `CSUM` (rule R118): any length 0 to 255. -/
def runCsum (bytes : List Byte) (s : State) : Except Fault State :=
  if 255 < bytes.length then .error .badOperand else .ok (s.withResult (.sum (checksum bytes)))

/-- `HDR.BUILD` (rule R120). -/
def runHdrBuild (destId : Word32) (len : BitVec 8) (s : State) : Except Fault State :=
  .ok (s.withResult (.bytes (destIdBytes destId ++ [len])))

/-- `HDR.PARSE` (rule R121). -/
def runHdrParse (bytes : List Byte) (s : State) : Except Fault State :=
  match bytes with
  | [b0, b1, b2, b3, len] => .ok (s.withResult (.header (destIdOfBytes b0 b1 b2 b3) len))
  | _ => .error .badOperand

/-- `FRAME.BUILD` (rule R125). -/
def runFrameBuild (p : Params) (s : State) : Except Fault State := do
  let (f, s) ← frameBuild p s
  return s.withResult (.built f.len f.destId f.haveData)

/-- `FRAME.PARSE` (rule R130). -/
def runFrameParse (p : Params) (len : BitVec 8) (s : State) : Except Fault State := do
  let (f, s) ← frameParse p len s
  return s.withResult (.parsed f.outcome f.streamId f.data)

/-- `BUF.RESET` (rule R136). -/
def runBufReset (s : State) : Except Fault State := .ok ((bufReset s).withResult .none)

/-- `BUF.PUSH` (rule R135): 1 to 255 bytes. -/
def runBufPush (data : List Byte) (s : State) : Except Fault State :=
  if data.length = 0 ∨ 255 < data.length then .error .badOperand
  else do
    let maxLen ← need s.cfg.maxPacketLen
    let (ok, s) := bufPush maxLen data s
    return s.withResult (.ok ok)

/-- `BUF.POP` (rule R137). -/
def runBufPop (n : BitVec 8) (s : State) : Except Fault State :=
  let (data, s) := bufPop n s
  .ok (s.withResult (.data data))

/-! ### The meanings -/

/-- `PPM.ENC`, rule R110. -/
def execPpmEnc (sample : TxSample) (s : State) : Host.Outcome State Fault Refusal := finish (runPpmEnc Config.params sample s)

/-- `PPM.DEC`, rule R111. -/
def execPpmDec (code : BitVec 9) (s : State) : Host.Outcome State Fault Refusal := finish (runPpmDec Config.params code s)

/-- `PPM.PACK`, rule R115. -/
def execPpmPack (withCsum : Bool) (s : State) : Host.Outcome State Fault Refusal := finish (runPpmPack Config.params withCsum s)

/-- `PPM.UNPACK`, rule R116. -/
def execPpmUnpack (bytes : List Byte) (withCsum : Bool) (s : State) : Host.Outcome State Fault Refusal :=
  finish (runPpmUnpack Config.params bytes withCsum s)

/-- `CSUM`, rule R118. -/
def execCsum (bytes : List Byte) (s : State) : Host.Outcome State Fault Refusal := finish (runCsum bytes s)

/-- `FRAME.BUILD`, rule R125. -/
def execFrameBuild (s : State) : Host.Outcome State Fault Refusal := finish (runFrameBuild Config.params s)

/-- `FRAME.PARSE`, rule R130. -/
def execFrameParse (len : BitVec 8) (s : State) : Host.Outcome State Fault Refusal := finish (runFrameParse Config.params len s)

/-- `BUF.RESET`, rule R136. -/
def execBufReset (s : State) : Host.Outcome State Fault Refusal := finish (runBufReset s)

/-- `BUF.PUSH`, rule R135. -/
def execBufPush (data : List Byte) (s : State) : Host.Outcome State Fault Refusal := finish (runBufPush data s)

/-- `BUF.POP`, rule R137. -/
def execBufPop (n : BitVec 8) (s : State) : Host.Outcome State Fault Refusal := finish (runBufPop n s)

/-- `HDR.BUILD`, rule R120. -/
def execHdrBuild (destId : Word32) (len : BitVec 8) (s : State) : Host.Outcome State Fault Refusal :=
  finish (runHdrBuild destId len s)

/-- `HDR.PARSE`, rule R121. -/
def execHdrParse (bytes : List Byte) (s : State) : Host.Outcome State Fault Refusal := finish (runHdrParse bytes s)

end Sys2Proof.Machine
end

