-- ==== Sys2Proof/Machine/Scheduler.lean ====
section
/-! DEFINITION. The channel scheduler's and the clock and slot scheduler's operations, family 0x2_ (41_channel_scheduler.md). -/

namespace Sys2Proof.Machine

/-! ### The channel table (rules R150, R151) -/

/-- Step 1 of rule R150: the terms `lo, lo + sp, lo + 2 sp, …` with `c <= hi` and `c <= 250`, where `c <= hi = max - g` is written
`c + g <= max` so that no subtraction can wrap. Every `c <= 250` is a term of index 250 or less, since `sp >= 1`. -/
def enumerateChannels (p : Params) (datarate : Word32) (minChannel maxChannel : BitVec 8) : List Nat :=
  ((List.range (chMax + 1)).map fun k => (minChannel.toNat + p.guardOf datarate) + k * p.spacingOf datarate).filter
    fun c => c + p.guardOf datarate ≤ maxChannel.toNat && c ≤ chMax

/-- The hidden variables of the keyed byte stream (rule R151). -/
structure KeyedStream where
  ctr : Word32
  digest : List Byte
  pos : Nat
  deriving DecidableEq, Repr

/-- The stream before its first byte: the digest exhausted (rule R151). -/
def streamStart (p : Params) : KeyedStream := { ctr := hashCounterInit, digest := [], pos := p.digestLen }

/-- `next()` of rule R151. -/
def streamNext (p : Params) (cid : Word32) (g : KeyedStream) : Byte × KeyedStream :=
  let g := if g.pos = p.digestLen then { ctr := g.ctr + 1, digest := p.keyedHash cid g.ctr, pos := 0 } else g
  (g.digest.getD g.pos 0, { g with pos := g.pos + 1 })

/-- The next `n` bytes of the stream. -/
def draws (p : Params) (cid : Word32) : Nat → KeyedStream → List Byte
  | 0, _ => []
  | n + 1, g => (streamNext p cid g).1 :: draws p cid n (streamNext p cid g).2

/-- `swap work[i] and work[r]`. -/
def swapAt (work : List Nat) (i r : Nat) : List Nat := (work.set i (work.getD r 0)).set r (work.getD i 0)

/-- Steps 2 and 3 of rule R150 from index `i` on: one draw for each index, `r = i + (rnd mod (n - i))`. -/
def shuffleFrom (n : Nat) : Nat → List Byte → List Nat → List Nat
  | _, [], work => work
  | i, rnd :: rnds, work => shuffleFrom n (i + 1) rnds (swapAt work i (i + rnd.toNat % (n - i)))

/-- The shuffled working array. -/
def shuffledChannels (p : Params) (cid datarate : Word32) (minChannel maxChannel : BitVec 8) : List Nat :=
  let work := enumerateChannels p datarate minChannel maxChannel
  shuffleFrom work.length 0 (draws p cid work.length (streamStart p)) work

/-- Step 4 of rule R150: at most 32 and even. -/
def evenCount (n : Nat) : Fin 33 := ⟨min n tableCap - min n tableCap % 2, by simp only [tableCap]; omega⟩

/-- `coordinatorId` (rule R30), when the registers it needs are set. -/
def coordinatorId (c : ConfigRegs) : Option Word32 :=
  match c.role with
  | some .coordinator => c.deviceId
  | some .peer => c.peerId
  | none => none

/-- What the channel table is made from. -/
structure TableInputs where
  cid : Word32
  datarate : Word32
  minChannel : BitVec 8
  maxChannel : BitVec 8
  deriving DecidableEq, Repr

/-- The inputs of `CH.GEN`, when all of them are set (rules R150, R241). -/
def tableInputs (c : ConfigRegs) : Option TableInputs :=
  match coordinatorId c, c.datarate, c.minChannel, c.maxChannel with
  | some cid, some datarate, some minChannel, some maxChannel =>
      some { cid := cid, datarate := datarate, minChannel := minChannel, maxChannel := maxChannel }
  | _, _, _, _ => none

/-- The generated table before it is cut to its count. -/
def generatedChannels (p : Params) (t : TableInputs) : List Nat :=
  shuffledChannels p t.cid t.datarate t.minChannel t.maxChannel

/-- Rule R150 on given inputs. -/
def chGen (p : Params) (t : TableInputs) (s : State) : State :=
  let work := generatedChannels p t
  { s with
    channelTable := vecOf 32 fun k =>
      if k < (evenCount work.length).val then BitVec.ofNat 8 (work.getD k 0) else s.channelTable.toList.getD k 0
    channelCount := evenCount work.length
    channelIndex := 0 }

/-- The hop index `k mod channelCount` of a table that is not empty. -/
def hopSlot (s : State) (nonEmpty : s.channelCount.val ≠ 0) (k : Nat) : Fin 32 :=
  ⟨k % s.channelCount.val, by
    have h := Nat.mod_lt k (Nat.pos_of_ne_zero nonEmpty)
    have := s.channelCount.isLt
    omega⟩

/-- The table's entry at a hop index. -/
def channelAt (s : State) (idx : Fin 32) : BitVec 8 := s.channelTable[idx.val]

/-! ### Clock, hop and slot (rules R157, R158, R160, R162) -/

/-- Rule R157. -/
def clkTime (now : Tick) (s : State) : Except Fault Tick := do
  let role ← need s.cfg.role
  return logicalTime role s.clockSkewMs now

/-- The skew formula of rule R158 for a hop cycle of `count` slots. -/
def learnedSkew (period : Period) (count : Nat) (start : Tick) (preambleOffset index : Nat) : BitVec 32 :=
  let cycle := period.ms.toNat * count
  BitVec.ofNat 32 (cycle - start.toNat % cycle + preambleOffset + period.ms.toNat * index)

/-- Rule R158. -/
def clkSync (p : Params) (s : State) : Except Fault (BitVec 32 × State) := do
  let role ← need s.cfg.role
  match role with
  | .coordinator => return (s.clockSkewMs, s)
  | .peer =>
    if s.channelCount.val = 0 then throw .noChannels
    let period ← need s.cfg.packetPeriodMs
    let datarate ← need s.cfg.datarate
    let skew := learnedSkew period s.channelCount.val s.packetStartTimestamp (p.preambleOffsetOf datarate) s.channelIndex.val
    return (skew, { s with clockSkewMs := skew })

/-- The index rule R160 computes before the timeout test: a disconnected peer is pinned to the synchronisation channel. -/
def hopTarget (role : Role) (now : Tick) (s : State) (nonEmpty : s.channelCount.val ≠ 0) : Except Fault (Fin 32) :=
  if role = .peer ∧ s.connState = .disconnected then .ok 0
  else do
    let period ← need s.cfg.packetPeriodMs
    return hopSlot s nonEmpty ((logicalTime role s.clockSkewMs now).toNat / period.ms.toNat)

/-- The drop-back test of rule R160. -/
def hopDrops (p : Params) (role : Role) (now : Tick) (s : State) (target : Fin 32) : Bool :=
  target ≠ s.channelIndex ∧ role = .peer ∧ s.connState = .connected ∧ contactTimedOut p now s.lastContactTimestamp

/-- Rule R160: the channel, whether the index changed, the new state. -/
def hopEval (p : Params) (now : Tick) (s : State) : Except Fault (BitVec 8 × Bool × State) :=
  if nonEmpty : s.channelCount.val = 0 then .error .noChannels
  else do
    let role ← need s.cfg.role
    let target ← hopTarget role now s nonEmpty
    let drop := hopDrops p role now s target
    let idx := if drop then 0 else target
    return (channelAt s idx, idx != s.channelIndex,
      { s with connState := if drop then .disconnected else s.connState, channelIndex := idx })

/-- Rule R162. DEDUCED (notes/assumptions/10.md): a peer on a one-way link never has a turn (corner case (c)), so its test, a conjunction
whose first part is false, does not read the period. -/
def slotTurn (now : Tick) (s : State) : Except Fault Bool := do
  let oneWay ← need s.cfg.oneWayLink
  let role ← need s.cfg.role
  if oneWay = true ∧ role = .peer then return false
  else
    let period ← need s.cfg.packetPeriodMs
    return slotTest oneWay role period (logicalTime role s.clockSkewMs now)

/-! ### The operations -/

/-- `CH.GEN` (rule R150). -/
def runChGen (p : Params) (s : State) : Except Fault State := do
  let t ← need (tableInputs s.cfg)
  let s := chGen p t s
  return s.withResult (.count (BitVec.ofNat 6 s.channelCount.val))

/-- `CH.AT` (rule R155). -/
def runChAt (n : BitVec 32) (s : State) : Except Fault State :=
  if nonEmpty : s.channelCount.val = 0 then .error .noChannels
  else .ok (s.withResult (.channel (channelAt s (hopSlot s nonEmpty n.toNat))))

/-- `CLK.TIME` (rule R157). -/
def runClkTime (now : Tick) (s : State) : Except Fault State := do
  let t ← clkTime now s
  return s.withResult (.time t)

/-- `CLK.SYNC` (rule R158). -/
def runClkSync (p : Params) (s : State) : Except Fault State := do
  let (skew, s) ← clkSync p s
  return s.withResult (.skew skew)

/-- `HOP.EVAL` (rule R160). -/
def runHopEval (p : Params) (now : Tick) (s : State) : Except Fault State := do
  let (channel, changed, s) ← hopEval p now s
  return s.withResult (.hop channel changed)

/-- `SLOT.TURN` (rule R162). -/
def runSlotTurn (now : Tick) (s : State) : Except Fault State := do
  let turn ← slotTurn now s
  return s.withResult (.myTurn turn)

/-! ### The meanings -/

/-- `CH.GEN`, rule R150. -/
def execChGen (s : State) : Host.Outcome State Fault Refusal := finish (runChGen Config.params s)

/-- `CH.AT`, rule R155. -/
def execChAt (n : BitVec 32) (s : State) : Host.Outcome State Fault Refusal := finish (runChAt n s)

/-- `CLK.TIME`, rule R157. -/
def execClkTime (now : Tick) (s : State) : Host.Outcome State Fault Refusal := finish (runClkTime now s)

/-- `CLK.SYNC`, rule R158. -/
def execClkSync (s : State) : Host.Outcome State Fault Refusal := finish (runClkSync Config.params s)

/-- `HOP.EVAL`, rule R160. -/
def execHopEval (now : Tick) (s : State) : Host.Outcome State Fault Refusal := finish (runHopEval Config.params now s)

/-- `SLOT.TURN`, rule R162. -/
def execSlotTurn (now : Tick) (s : State) : Host.Outcome State Fault Refusal := finish (runSlotTurn now s)

end Sys2Proof.Machine
end

