-- ==== Sys2Proof/Machine/Stats.lean ====
section
/-! DEFINITION. The link statistics' and the timeout detector's operations, family 0x3_ (42_link_stats_timeout.md). -/

namespace Sys2Proof.Machine

/-! ### Outcome history (rules R38, R91, R180, R182) -/

/-- A history with every code `STATS_RESET_CODE` (rule R38). -/
def historyReset : Vector (BitVec 32) 4 := Vector.replicate 4 historyResetWord

/-- Rule R180 on the four words: every code moves from position `k` to `k + 1`, the new one is at position 0. -/
def pushHistory (code : BitVec 2) (h : Vector (BitVec 32) 4) : Vector (BitVec 32) 4 :=
  #v[(h[0] <<< 2) ||| code.setWidth 32,
     (h[1] <<< 2) ||| (h[0].extractLsb' 30 2).setWidth 32,
     (h[2] <<< 2) ||| (h[1].extractLsb' 30 2).setWidth 32,
     (h[3] <<< 2) ||| (h[2].extractLsb' 30 2).setWidth 32]

/-- Code slot `j` of a word: bits `[2j+1 : 2j]` (rule R91). -/
def slotCode (w : BitVec 32) (j : Nat) : BitVec 2 := w.extractLsb' (2 * j) 2

/-- How many of the sixteen codes of a word are `c`. -/
def wordCount (c : BitVec 2) (w : BitVec 32) : Nat := (List.range codesPerWord).countP fun j => slotCode w j = c

/-- How many codes of the history are `c` (rule R182). -/
def historyCount (h : Vector (BitVec 32) 4) (c : OutcomeCode) : Nat :=
  (h.toList.map (wordCount (outcomeBits c))).sum

/-- `linkQuality = 64 + good - error - failure`, a signed integer with no clamp (rule R182). -/
def linkQuality (h : Vector (BitVec 32) 4) : Int :=
  lqBase + historyCount h .good - historyCount h .error - historyCount h .failure

/-- Rule R180 on the state. -/
def stPush (code : OutcomeCode) (s : State) : State := { s with history := pushHistory (outcomeBits code) s.history }

/-! ### Connection check (rule R190) -/

/-- Rule R190: the check and its effect on the latch. -/
def stTochk (p : Params) (now : Tick) (s : State) : Bool × State :=
  let timedOut := contactTimedOut p now s.lastContactTimestamp
  (timedOut, { s with connState := if timedOut then .disconnected else s.connState })

/-! ### Transaction and supervisor timeouts (rules R196, R198) -/

/-- Rule R196; `packetPeriodMs` is read only while a transaction is open. -/
def toTxn (now : Tick) (s : State) : Except Fault Bool :=
  if s.txnOpen then do
    let period ← need s.cfg.packetPeriodMs
    return txnTimedOut period now s.packetStartTimestamp
  else .ok false

/-- Rule R198. -/
def toSup (p : Params) (now : Tick) (s : State) : Bool := supervisorTimedOut p now s.lastEventTimestamp

/-! ### The operations -/

/-- `ST.PUSH` (rule R180). -/
def runStPush (outcome : Nat) (s : State) : Except Fault State :=
  match outcomeOfCode outcome with
  | some code => .ok ((stPush code s).withResult .none)
  | none => .error .badOperand

/-- `ST.READ` (rule R182). -/
def runStRead (s : State) : Except Fault State :=
  .ok (s.withResult (.counters (historyCount s.history .good) (historyCount s.history .corrected)
    (historyCount s.history .error) (historyCount s.history .failure) (linkQuality s.history)))

/-- `ST.CONTACT` (rule R186). -/
def runStContact (now : Tick) (s : State) : Except Fault State := .ok ((contact now s).withResult .none)

/-- `ST.ISCONN` (rule R188). -/
def runStIsconn (s : State) : Except Fault State := .ok (s.withResult (.connected (isConnected s.connState)))

/-- `ST.TOCHK` (rule R190). -/
def runStTochk (p : Params) (now : Tick) (s : State) : Except Fault State :=
  let (timedOut, s) := stTochk p now s
  .ok (s.withResult (.timedOut timedOut))

/-- `TXN.OPEN` (rule R193). -/
def runTxnOpen (now : Tick) (s : State) : Except Fault State := .ok ((txnOpen now s).withResult .none)

/-- `TXN.CLOSE` (rule R194). -/
def runTxnClose (s : State) : Except Fault State := .ok ((txnClose s).withResult .none)

/-- `TO.TXN` (rule R196). -/
def runToTxn (now : Tick) (s : State) : Except Fault State := do
  let expired ← toTxn now s
  return s.withResult (.expired expired)

/-- `TO.SUP` (rule R198). -/
def runToSup (p : Params) (now : Tick) (s : State) : Except Fault State := .ok (s.withResult (.expired (toSup p now s)))

/-! ### The meanings -/

/-- `ST.PUSH`, rule R180. -/
def execStPush (outcome : Nat) (s : State) : Host.Outcome State Fault Refusal := finish (runStPush outcome s)

/-- `ST.READ`, rule R182. -/
def execStRead (s : State) : Host.Outcome State Fault Refusal := finish (runStRead s)

/-- `ST.CONTACT`, rule R186. -/
def execStContact (now : Tick) (s : State) : Host.Outcome State Fault Refusal := finish (runStContact now s)

/-- `ST.ISCONN`, rule R188. -/
def execStIsconn (s : State) : Host.Outcome State Fault Refusal := finish (runStIsconn s)

/-- `ST.TOCHK`, rule R190. -/
def execStTochk (now : Tick) (s : State) : Host.Outcome State Fault Refusal := finish (runStTochk Config.params now s)

/-- `TXN.OPEN`, rule R193. -/
def execTxnOpen (now : Tick) (s : State) : Host.Outcome State Fault Refusal := finish (runTxnOpen now s)

/-- `TXN.CLOSE`, rule R194. -/
def execTxnClose (s : State) : Host.Outcome State Fault Refusal := finish (runTxnClose s)

/-- `TO.TXN`, rule R196. -/
def execToTxn (now : Tick) (s : State) : Host.Outcome State Fault Refusal := finish (runToTxn now s)

/-- `TO.SUP`, rule R198. -/
def execToSup (now : Tick) (s : State) : Host.Outcome State Fault Refusal := finish (runToSup Config.params now s)

end Sys2Proof.Machine
end

