-- ==== Sys2Proof/Machine/Sequencer.lean ====
section
/-! DEFINITION. The link sequencer's operations, family 0x4_, its transition table and its entry actions (43_link_sequencer.md), and
`INIT`'s block-side reset, which the entry action of `Initializing` runs (rule R240). -/

namespace Sys2Proof.Machine

/-! ### Events -/

/-- Rule R212: append the event and signal, or lose it when the queue is full. -/
def evPost (p : Params) (e : Event) (s : State) : Bool × State :=
  if p.eventQueueCap ≤ s.eventQueue.length then (false, s)
  else (true, { s with eventQueue := s.eventQueue ++ [e], wakeCount := s.wakeCount + 1 })

/-- The transition table (rule R215); none is an empty cell, the event is dropped. -/
def transition : FsmState → Event → Option FsmState
  | .uninitialized, .initializeLink => some .initializing
  | .initializing, .initialized => some .rxMode
  | .initializing, .error => some .error
  | .initializing, .fatalError => some .fatalError
  | .rxMode, .initializeLink => some .initializing
  | .rxMode, .internalInterrupt => some .rxData
  | .rxMode, .txStart => some .txStart
  | .rxMode, .rxMode => some .rxMode
  | .rxMode, .timeout => some .timeout
  | .rxMode, .error => some .error
  | .rxMode, .fatalError => some .fatalError
  | .rxData, .initializeLink => some .initializing
  | .rxData, .internalInterrupt => some .rxData
  | .rxData, .rxComplete => some .txStart
  | .rxData, .rxMode => some .rxMode
  | .rxData, .timeout => some .timeout
  | .rxData, .error => some .error
  | .rxData, .fatalError => some .fatalError
  | .txStart, .initializeLink => some .initializing
  | .txStart, .internalInterrupt => some .txData
  | .txStart, .rxMode => some .rxMode
  | .txStart, .timeout => some .timeout
  | .txStart, .error => some .error
  | .txStart, .fatalError => some .fatalError
  | .txData, .initializeLink => some .initializing
  | .txData, .internalInterrupt => some .txData
  | .txData, .rxComplete => some .rxMode
  | .txData, .rxMode => some .rxMode
  | .txData, .timeout => some .timeout
  | .txData, .error => some .error
  | .txData, .fatalError => some .fatalError
  | .timeout, .initializeLink => some .initializing
  | .timeout, .rxMode => some .rxMode
  | .timeout, .error => some .error
  | .timeout, .fatalError => some .fatalError
  | .error, .initializeLink => some .initializing
  | .error, .fatalError => some .fatalError
  | _, _ => none

/-! ### Entry actions (rules R220 to R227): the next event to inject, or none -/

/-- `INIT` (rule R240). -/
def initBlock (s : State) : State :=
  { s with history := historyReset, pktLen := 0, pktRd := 0, txnOpen := false, packetStartTimestamp := 0 }

/-- Rule R220. -/
def enterInitializing (s : State) : Except Fault (Option Event × State) :=
  let (idOk, s) := callResetAndIdentify (initBlock s)
  if idOk then do
    let deviceId ← need s.cfg.deviceId
    let peerId ← need s.cfg.peerId
    let datarate ← need s.cfg.datarate
    return (some .initialized, emit (.configure deviceId peerId datarate) s)
  else .ok (some .fatalError, s)

/-- Rule R221. -/
def enterRxMode (s : State) : Option Event × State := (none, emit .armReceiver (bufReset (txnClose s)))

/-- `RX.FAIL` (rule R100). -/
def rxFail (s : State) : State := bufReset (txnClose (stPush .failure s))

/-- What a valid frame does besides its history code: the contact, and the clock of a peer on the synchronisation channel
(rule R100 `RX.DONE`). -/
def rxValid (p : Params) (now : Tick) (s : State) : Except Fault State := do
  let s := contact now s
  let role ← need s.cfg.role
  if role = .peer ∧ s.channelIndex = 0 then
    let (_, s) ← clkSync p s
    return s
  else return s

/-- `RX.DONE now, len` (rule R100). -/
def rxDone (p : Params) (now : Tick) (len : BitVec 8) (s : State) : Except Fault (ParsedFrame × State) := do
  let (f, s) ← frameParse p len s
  let s := stPush f.outcome s
  let s ← if validOutcome f.outcome then rxValid p now s else .ok s
  return (f, bufReset (txnClose s))

/-- The `receivedBytes` callback, invoked when there is a stream and a byte (rule R246). -/
def deliver (f : ParsedFrame) (s : State) : State :=
  match f.streamId with
  | some id => if f.data.isEmpty then s else emit (.received id f.data) s
  | none => s

/-- `if |bytes| > 0 and BUF.PUSH(bytes) = 0` of rule R222: false when the bytes did not fit. -/
def pullBytes (bytes : List Byte) (s : State) : Except Fault (Bool × State) :=
  if bytes.isEmpty then .ok (true, s)
  else do
    let maxLen ← need s.cfg.maxPacketLen
    return bufPush maxLen bytes s

/-- The continuation of rule R222 on the answer of `T.pollRx()`. -/
def onPollRx (p : Params) (now : Tick) (answer : RxAnswer) (s : State) : Except Fault (Option Event × State) :=
  match answer with
  | .moreDataPending bytes => do
      let (fits, s) ← pullBytes bytes s
      if fits then return (none, s) else return (some .rxMode, rxFail s)
  | .packetComplete len bytes => do
      let (fits, s) ← pullBytes bytes s
      if fits then
        let (f, s) ← rxDone p now len s
        if validOutcome f.outcome then return (some .rxComplete, deliver f s) else return (some .rxMode, s)
      else return (some .rxMode, rxFail s)
  | .fail => .ok (some .rxMode, rxFail s)

/-- Rule R222. -/
def enterRxData (p : Params) (now : Tick) (s : State) : Except Fault (Option Event × State) :=
  let (status, s) := callReadStatus s
  if status.ok then
    let s := if s.txnOpen then s else txnOpen now s
    let (answer, s) := callPollRx s
    onPollRx p now answer s
  else .ok (some .error, s)

/-- Rule R223. -/
def enterTxStart (p : Params) (now : Tick) (s : State) : Except Fault (Option Event × State) := do
  let turn ← slotTurn now s
  if turn then
    let (f, s) ← frameBuild p s
    let role ← need s.cfg.role
    if f.haveData = false ∧ role = .peer then return (some .rxMode, bufReset s)
    else return (none, callArmTransmitter f.destId (txnOpen now s))
  else return (some .rxMode, s)

/-- The continuation of rule R224 on the answer of `T.pollTx()`. -/
def onPollTx (answer : TxAnswer) (s : State) : Option Event × State :=
  match answer with
  | .needsMoreData n =>
      let (bytes, s) := bufPop n s
      (none, emit (.feed bytes) s)
  | .sent => (some .rxComplete, bufReset (txnClose s))
  | .fail => (some .rxMode, bufReset (txnClose s))

/-- Rule R224. -/
def enterTxData (s : State) : Option Event × State :=
  let (status, s) := callReadStatus s
  if status.ok then
    let (answer, s) := callPollTx s
    onPollTx answer s
  else (some .error, s)

/-- The entry action of each state (rules R220 to R228). -/
def entryAction (p : Params) (now : Tick) (st : FsmState) (s : State) : Except Fault (Option Event × State) :=
  match st with
  | .uninitialized => .ok (none, s)
  | .initializing => enterInitializing s
  | .rxMode => .ok (enterRxMode s)
  | .rxData => enterRxData p now s
  | .txStart => enterTxStart p now s
  | .txData => .ok (enterTxData s)
  | .timeout => .ok (leaveFault .timeout, takeFault .timeout s)
  | .error => .ok (leaveFault .error, takeFault .error s)
  | .fatalError => .ok (leaveFault .fatalError, takeFault .fatalError s)

/-! ### Processing one event with its cascade (rule R213) -/

/-- The transitions a cascade may take: rule R213 gives four as the longest. -/
def cascadeBound : Nat := 4

/-- The `repeat` of rule R213, for at most `n` transitions. -/
def cascade (p : Params) (now : Tick) : Nat → Event → State → Except Fault State
  | 0, _, s => .ok s
  | n + 1, e, s =>
    match transition s.fsmState e with
    | none => .ok s
    | some st => do
        let (next, s) ← entryAction p now st { s with fsmState := st }
        match next with
        | none => return s
        | some e => cascade p now n e s

/-- Rule R213. -/
def evStep (p : Params) (e : Event) (now : Tick) (s : State) : Except Fault State := cascade p now cascadeBound e s

/-! ### The driving loop (rule R216) -/

/-- An interrupt taken before the link has started is discarded (rules R216, R265). -/
def discarded (e : Event) (st : FsmState) : Bool :=
  e = .internalInterrupt ∧ (st = .uninitialized ∨ st = .initializing)

/-- The drain of step 1: the events of the queue, oldest first, each removed before it is processed. -/
def drain (p : Params) (now : Tick) : List Event → State → Except Fault State
  | [], s => .ok s
  | e :: es, s => do
      let s := { s with eventQueue := es, lastEventTimestamp := now }
      let s ← if discarded e s.fsmState then .ok s else evStep p e now s
      drain p now es s

/-- Steps 1 and 2. -/
def tickEvents (p : Params) (now : Tick) (s : State) : Except Fault State :=
  if 0 < s.wakeCount then drain p now s.eventQueue { s with wakeCount := 0 }
  else if toSup p now s then evStep p .error now { s with eventQueue := [], lastEventTimestamp := now }
  else .ok s

/-- Step 3. -/
def tickHop (p : Params) (now : Tick) (s : State) : Except Fault State := do
  let (channel, changed, s) ← hopEval p now s
  if changed then evStep p .rxMode now (emit (.setChannel channel) s) else return s

/-- Step 4. -/
def tickTxn (p : Params) (now : Tick) (s : State) : Except Fault State := do
  let expired ← toTxn now s
  if expired then evStep p .timeout now s else return s

/-- Step 5. -/
def tickTurn (p : Params) (now : Tick) (s : State) : Except Fault State :=
  if s.fsmState = .rxMode then do
    let turn ← slotTurn now s
    if turn then evStep p .txStart now s else return s
  else .ok s

/-- Rule R216. -/
def loopTick (p : Params) (now : Tick) (s : State) : Except Fault State := do
  let s ← tickEvents p now s
  if linkRunning s.fsmState then
    let s ← tickHop p now s
    let s ← tickTxn p now s
    tickTurn p now s
  else return s

/-! ### The operations -/

/-- `EV.POST` (rule R212). -/
def runEvPost (p : Params) (event : Nat) (s : State) : Except Fault State :=
  match eventOfCode event with
  | some e => .ok ((evPost p e s).2.withResult (.ok (evPost p e s).1))
  | none => .error .badOperand

/-- `EV.STEP` (rule R213). -/
def runEvStep (p : Params) (event : Nat) (now : Tick) (s : State) : Except Fault State :=
  match eventOfCode event with
  | some e => do
      let s ← evStep p e now s
      return s.withResult .none
  | none => .error .badOperand

/-- `LOOP.TICK` (rule R216). -/
def runLoopTick (p : Params) (now : Tick) (s : State) : Except Fault State := do
  let s ← loopTick p now s
  return s.withResult .none

/-! ### The meanings -/

/-- `EV.POST`, rule R212. -/
def execEvPost (event : Nat) (s : State) : Host.Outcome State Fault Refusal := finish (runEvPost Config.params event s)

/-- `EV.STEP`, rule R213. -/
def execEvStep (event : Nat) (now : Tick) (s : State) : Host.Outcome State Fault Refusal :=
  finish (runEvStep Config.params event now s)

/-- `LOOP.TICK`, rule R216. -/
def execLoopTick (now : Tick) (s : State) : Host.Outcome State Fault Refusal := finish (runLoopTick Config.params now s)

end Sys2Proof.Machine
end

