-- ==== Sys2Proof/Machine/Callers.lean ====
section
/-! DEFINITION. Configuration and the caller operations, family 0x0_ (44_config_and_host.md). -/

namespace Sys2Proof.Machine

/-- The regeneration of rule R241: the table from the configuration when its inputs are all set, else an empty table. -/
def regenerate (p : Params) (s : State) : State :=
  match tableInputs s.cfg with
  | some t => chGen p t s
  | none => { s with channelCount := 0, channelIndex := 0 }

/-- The re-`Initialize` of rule R241, posted on a node that was started. -/
def postReinit (p : Params) (s : State) : State :=
  if s.fsmState = .uninitialized then s else (evPost p .initializeLink s).2

/-- `INIT` (rule R240). -/
def runInit (s : State) : Except Fault State := .ok ((initBlock s).withResult .none)

/-- `CFG.SET` (rule R241): fields 0 to 5 regenerate the table. -/
def runCfgSet (p : Params) (field : Nat) (value : BitVec 32) (s : State) : Except Fault State :=
  match writeCfg p s.cfg field value with
  | none => .error .badOperand
  | some c =>
      let s := { s with cfg := c }
      let s := if field ≤ 5 then regenerate p s else s
      .ok ((postReinit p s).withResult .none)

/-- `STATS.GET` (rule R242). -/
def runStatsGet (p : Params) (now : Tick) (rssi : BitVec 8) (s : State) : Except Fault State :=
  let (_, s) := stTochk p now s
  .ok (s.withResult (.stats (historyCount s.history .good) (historyCount s.history .corrected)
    (historyCount s.history .error) (historyCount s.history .failure) (linkQuality s.history) rssi (isConnected s.connState)))

/-- `PPM.SET` (rule R243). -/
def runPpmSet (p : Params) (ch : Nat) (sample : TxSample) (s : State) : Except Fault State :=
  if ch < p.numPpmCh then .ok ({ s with ppmTx := s.ppmTx.setIfInBounds ch sample }.withResult .none)
  else .error .badOperand

/-- `PPM.GET` (rule R244). -/
def runPpmGet (p : Params) (ch : Nat) (s : State) : Except Fault State :=
  if ch < p.numPpmCh then .ok (s.withResult (.sample (s.ppmRx.toList.getD ch .timeout)))
  else .error .badOperand

/-- `STREAM.TX` (rule R245). -/
def runStreamTx (p : Params) (streamId : Nat) (data : List Byte) (s : State) : Except Fault State :=
  match streamOfCode streamId with
  | none => .error .badOperand
  | some id =>
      let accepted := min data.length (p.streamQueueCap - (txQueue s id).length)
      .ok ((setTxQueue s id (txQueue s id ++ data.take accepted)).withResult (.accepted accepted))

/-! ### The meanings -/

/-- `INIT`, rule R240. -/
def execInit (s : State) : Host.Outcome State Fault Refusal := finish (runInit s)

/-- `CFG.SET`, rule R241. -/
def execCfgSet (field : Nat) (value : BitVec 32) (s : State) : Host.Outcome State Fault Refusal :=
  finish (runCfgSet Config.params field value s)

/-- `STATS.GET`, rule R242. -/
def execStatsGet (now : Tick) (rssi : BitVec 8) (s : State) : Host.Outcome State Fault Refusal :=
  finish (runStatsGet Config.params now rssi s)

/-- `PPM.SET`, rule R243. -/
def execPpmSet (ch : Nat) (sample : TxSample) (s : State) : Host.Outcome State Fault Refusal :=
  finish (runPpmSet Config.params ch sample s)

/-- `PPM.GET`, rule R244. -/
def execPpmGet (ch : Nat) (s : State) : Host.Outcome State Fault Refusal := finish (runPpmGet Config.params ch s)

/-- `STREAM.TX`, rule R245. -/
def execStreamTx (streamId : Nat) (data : List Byte) (s : State) : Host.Outcome State Fault Refusal :=
  finish (runStreamTx Config.params streamId data s)

end Sys2Proof.Machine
end

