-- ==== Sys2Proof/Machine/Dispatch.lean ====
section
/-! DEFINITION. One arm per operation: each calls its meaning. -/

namespace Sys2Proof.Machine

def exec (i : Instr) (s : State) : Host.Outcome State Fault Refusal :=
  match i with
  | .init => Sys2Proof.Machine.execInit s
  | .cfgSet field value => Sys2Proof.Machine.execCfgSet field value s
  | .statsGet now rssi => Sys2Proof.Machine.execStatsGet now rssi s
  | .ppmSet ch sample => Sys2Proof.Machine.execPpmSet ch sample s
  | .ppmGet ch => Sys2Proof.Machine.execPpmGet ch s
  | .streamTx streamId data => Sys2Proof.Machine.execStreamTx streamId data s
  | .ppmEnc sample => Sys2Proof.Machine.execPpmEnc sample s
  | .ppmDec code => Sys2Proof.Machine.execPpmDec code s
  | .ppmPack withCsum => Sys2Proof.Machine.execPpmPack withCsum s
  | .ppmUnpack bytes withCsum => Sys2Proof.Machine.execPpmUnpack bytes withCsum s
  | .csum bytes => Sys2Proof.Machine.execCsum bytes s
  | .frameBuild => Sys2Proof.Machine.execFrameBuild s
  | .frameParse len => Sys2Proof.Machine.execFrameParse len s
  | .bufReset => Sys2Proof.Machine.execBufReset s
  | .bufPush data => Sys2Proof.Machine.execBufPush data s
  | .bufPop n => Sys2Proof.Machine.execBufPop n s
  | .hdrBuild destId len => Sys2Proof.Machine.execHdrBuild destId len s
  | .hdrParse bytes => Sys2Proof.Machine.execHdrParse bytes s
  | .chGen => Sys2Proof.Machine.execChGen s
  | .chAt n => Sys2Proof.Machine.execChAt n s
  | .clkTime now => Sys2Proof.Machine.execClkTime now s
  | .clkSync => Sys2Proof.Machine.execClkSync s
  | .hopEval now => Sys2Proof.Machine.execHopEval now s
  | .slotTurn now => Sys2Proof.Machine.execSlotTurn now s
  | .stPush outcome => Sys2Proof.Machine.execStPush outcome s
  | .stRead => Sys2Proof.Machine.execStRead s
  | .stContact now => Sys2Proof.Machine.execStContact now s
  | .stIsconn => Sys2Proof.Machine.execStIsconn s
  | .stTochk now => Sys2Proof.Machine.execStTochk now s
  | .txnOpen now => Sys2Proof.Machine.execTxnOpen now s
  | .txnClose => Sys2Proof.Machine.execTxnClose s
  | .toTxn now => Sys2Proof.Machine.execToTxn now s
  | .toSup now => Sys2Proof.Machine.execToSup now s
  | .evPost event => Sys2Proof.Machine.execEvPost event s
  | .evStep event now => Sys2Proof.Machine.execEvStep event now s
  | .loopTick now => Sys2Proof.Machine.execLoopTick now s

end Sys2Proof.Machine
end

