-- ==== Sys2Proof/Machine/Step.lean ====
section
/-! DEFINITION. One step: the block takes the next request issued to it, decodes it and runs it to completion (00_scope.md rule R6). -/

namespace Sys2Proof.Machine

/-- The block is driven by the operations its agents issue, one at a time, in the order they issue them (rules R6, R22, R68). With no
request waiting nothing happens. An operation code outside the table is refused (rule R95). -/
def step (s : State) : Host.Outcome State Fault Refusal :=
  match s.requests with
  | [] => .next s
  | r :: rest =>
    match decode r with
    | .ok i => exec i { s with requests := rest }
    | .error _ => .fault .badOperation

/-- The state with the operation whose code is `w`, its operands zero, as the next request the step takes. -/
def State.withFetchWord (s : State) (_nbits w : Nat) : State :=
  { s with requests := zeroRequest (BitVec.ofNat 8 w) :: s.requests }

end Sys2Proof.Machine
end

