-- ==== Sys2Proof/Safety.lean ====
section
/-! DEFINITION. What a safe run is: the whole machine at given parameters, the invariants the spec gives the state (10_state.md,
20_memory.md rule R74, 43_link_sequencer.md rule R215), and when a node is ready for every operation (70_reset_and_hazards.md rule R292). -/

namespace Sys2Proof.Machine

/-- The operation at a parameter set (rule R10: "a named parameter the model takes as an argument"). `exec` is this at
`Config.params`. -/
def runAt (p : Params) : Instr → State → Except Fault State
  | .init, s => runInit s
  | .cfgSet field value, s => runCfgSet p field value s
  | .statsGet now rssi, s => runStatsGet p now rssi s
  | .ppmSet ch sample, s => runPpmSet p ch sample s
  | .ppmGet ch, s => runPpmGet p ch s
  | .streamTx streamId data, s => runStreamTx p streamId data s
  | .ppmEnc sample, s => runPpmEnc p sample s
  | .ppmDec code, s => runPpmDec p code s
  | .ppmPack withCsum, s => runPpmPack p withCsum s
  | .ppmUnpack bytes withCsum, s => runPpmUnpack p bytes withCsum s
  | .csum bytes, s => runCsum bytes s
  | .frameBuild, s => runFrameBuild p s
  | .frameParse len, s => runFrameParse p len s
  | .bufReset, s => runBufReset s
  | .bufPush data, s => runBufPush data s
  | .bufPop n, s => runBufPop n s
  | .hdrBuild destId len, s => runHdrBuild destId len s
  | .hdrParse bytes, s => runHdrParse bytes s
  | .chGen, s => runChGen p s
  | .chAt n, s => runChAt n s
  | .clkTime now, s => runClkTime now s
  | .clkSync, s => runClkSync p s
  | .hopEval now, s => runHopEval p now s
  | .slotTurn now, s => runSlotTurn now s
  | .stPush outcome, s => runStPush outcome s
  | .stRead, s => runStRead s
  | .stContact now, s => runStContact now s
  | .stIsconn, s => runStIsconn s
  | .stTochk now, s => runStTochk p now s
  | .txnOpen now, s => runTxnOpen now s
  | .txnClose, s => runTxnClose s
  | .toTxn now, s => runToTxn now s
  | .toSup now, s => runToSup p now s
  | .evPost event, s => runEvPost p event s
  | .evStep event now, s => runEvStep p event now s
  | .loopTick now, s => runLoopTick p now s

/-! ### Ways to read the state -/

/-- The outcome code at position `k` of a history, 0 the newest, 63 the oldest (rules R38, R91). -/
def codeAt (h : Vector (BitVec 32) 4) (k : Nat) : BitVec 2 := (h.toList.getD (k / 16) 0).extractLsb' (2 * (k % 16)) 2

/-- How many of the 64 positions hold the code `c`. -/
def positionCount (h : Vector (BitVec 32) 4) (c : BitVec 2) : Nat := (List.range 64).countP fun k => codeAt h k = c

/-- The bytes a sequence of `BUF.POP` takes from the buffer, one after the other (rule R137). -/
def poppedBytes : List (BitVec 8) → State → List Byte
  | [], _ => []
  | n :: ns, s => (bufPop n s).1 ++ poppedBytes ns (bufPop n s).2

/-- The sum of a byte sequence as a plain number. -/
def byteSum (bytes : List Byte) : Nat := (bytes.map BitVec.toNat).sum

/-- A transport call in a state with the answers `supplied` and `used` free values used so far gets the answer `a`, and leaves the
answers `rest` and `used'`: the oldest supplied answer, or the next free value (rule R252). -/
def AnswerTaken {α : Type} (supplied : List α) (free : Nat → α) (used : Nat) (a : α) (rest : List α) (used' : Nat) : Prop :=
  (supplied = a :: rest ∧ used' = used) ∨ (supplied = [] ∧ rest = [] ∧ a = free used ∧ used' = used + 1)

/-- What the `receivedBytes` callback is given for a parsed frame: one call when there is a stream and a byte (rule R246). -/
def deliveries (f : ParsedFrame) : List Output :=
  match f.streamId with
  | some id => if f.data = [] then [] else [.received id f.data]
  | none => []

/-! ### Invariants -/

/-- The buffer's bytes are in canonical form and the cursors are in order: `pktRd <= pktLen` (rule R42). -/
structure BufferInv (s : State) : Prop where
  canonical : Memory.wf s.pktBuf = true
  cursors : s.pktRd.toNat ≤ s.pktLen.toNat

/-- Entry `k` of the channel table. -/
def tableEntry (s : State) (k : Nat) : BitVec 8 := s.channelTable.toList.getD k 0

/-- Rules R33 and R35: an even count, valid entries pairwise distinct and at most 250, the index inside the table. -/
structure TableInv (s : State) : Prop where
  even : s.channelCount.val % 2 = 0
  index : s.channelIndex.val < max s.channelCount.val 1
  distinct : ∀ j k, j < k → k < s.channelCount.val → tableEntry s j ≠ tableEntry s k
  range : ∀ k, k < s.channelCount.val → (tableEntry s k).toNat ≤ chMax

/-- Rule R74: the table is the one the configuration registers give, and empty while one of its inputs is unset (rule R241). -/
def TableMatches (p : Params) (s : State) : Prop :=
  match tableInputs s.cfg with
  | some t =>
      s.channelCount = evenCount (generatedChannels p t).length ∧
        ∀ k, k < s.channelCount.val → (tableEntry s k).toNat = (generatedChannels p t).getD k 0
  | none => s.channelCount = 0

/-- Rule R28: every register that is set holds a legal value, and `maxPacketLen` follows `datarate`. -/
structure ConfigInv (p : Params) (s : State) : Prop where
  datarate : ∀ d, s.cfg.datarate = some d → d ∈ p.datarates
  minChannel : ∀ c, s.cfg.minChannel = some c → c.toNat ≤ chMax
  maxChannel : ∀ c, s.cfg.maxChannel = some c → c.toNat ≤ chMax
  maxPacketLen : s.cfg.maxPacketLen = s.cfg.datarate.map p.maxPacketLenOf

/-- Rules R25 and R43: the queues keep to their capacities, and the wake signal counts the queued events. -/
structure QueueInv (p : Params) (s : State) : Prop where
  events : s.eventQueue.length ≤ p.eventQueueCap
  signal : s.wakeCount = s.eventQueue.length
  primary : s.txQueuePrimary.length ≤ p.streamQueueCap
  aux : s.txQueueAux.length ≤ p.streamQueueCap

/-- A state the sequencer may be in between two operations: `Initializing`, `Timeout` and `Error` are transient (rule R215). -/
def resting : FsmState → Bool
  | .initializing | .timeout | .error => false
  | .uninitialized | .rxMode | .rxData | .txStart | .txData | .fatalError => true

/-- The sequencer rests, and the failure indication is on exactly in `FatalError` (rules R27, R215, R227). -/
structure SequencerInv (s : State) : Prop where
  rests : resting s.fsmState = true
  fatal : s.fatal = true ↔ s.fsmState = .fatalError

/-- Everything above: what holds of a node between two operations. -/
structure Inv (p : Params) (s : State) : Prop where
  buffer : BufferInv s
  table : TableInv s
  matching : TableMatches p s
  config : ConfigInv p s
  queues : QueueInv p s
  sequencer : SequencerInv s

/-! ### Readiness -/

/-- Every configuration register has been written (rule R292 step 1). -/
structure Configured (c : ConfigRegs) : Prop where
  role : c.role.isSome = true
  deviceId : c.deviceId.isSome = true
  peerId : c.peerId.isSome = true
  datarate : c.datarate.isSome = true
  minChannel : c.minChannel.isSome = true
  maxChannel : c.maxChannel.isSome = true
  packetPeriodMs : c.packetPeriodMs.isSome = true
  oneWayLink : c.oneWayLink.isSome = true
  ppmOnly : c.ppmOnly.isSome = true
  ppmSend : c.ppmSend.isSome = true
  ppmRecv : c.ppmRecv.isSome = true
  maxPacketLen : c.maxPacketLen.isSome = true

/-- The bytes of a sub-frame when there is one (rules R84, R85). -/
def subLenOf (p : Params) (present withCsum : Bool) : Nat := if present then subframeLen p withCsum else 0

/-- The fixed part of the configured layout fits `maxPacketLen`: `FRAME.BUILD` does not find `ConfigInvalid` (rule R125). -/
def LayoutFits (p : Params) (c : ConfigRegs) : Prop :=
  ∀ ppmOnly ppmSend maxLen, c.ppmOnly = some ppmOnly → c.ppmSend = some ppmSend → c.maxPacketLen = some maxLen →
    if ppmOnly then subLenOf p ppmSend true ≤ maxLen.toNat else muxFixedLen p (subLenOf p ppmSend false) ≤ maxLen.toNat

/-- A node on which no operation with legal operands is refused: configured, with a channel table and a layout that fits
(rules R250 row 1, R271, R292). -/
structure Operational (p : Params) (s : State) : Prop where
  configured : Configured s.cfg
  channels : s.channelCount ≠ 0
  layout : LayoutFits p s.cfg

end Sys2Proof.Machine
end

