-- ==== Sys2Proof/Certificates/Slice0/Obligations.lean ====
section
/-! DEFINITION. The statements about this machine. Each docstring names the rule of the spec it formalises. A statement "at every
parameter set" is about `runAt p`; the machine is the one at `Config.params` (last clause of `StepRunsDecodedOperation`). -/

open Sys2Proof Sys2Proof.Machine

/-! ### Requests, decoding -/

/-- Rules R6, R95, R10. A request whose operation code is in the table runs that operation on the state without the request; any other is
refused `BadOperation`; with no request waiting nothing happens (the idle step is the model's choice, notes/assumptions/1.md). The operations are those of the
parametric machine at this node's parameters. -/
def Obligations.StepRunsDecodedOperation : Prop :=
  ∀ s : State,
    (∀ r rest i, s.requests = r :: rest → decode r = .ok i → step s = exec i { s with requests := rest }) ∧
    (∀ r rest e, s.requests = r :: rest → decode r = .error e → step s = .fault .badOperation) ∧
    (s.requests = [] → step s = .next s) ∧
    ∀ i : Instr, exec i s = finish (runAt Config.params i s)

/-- Rules R95, R96, R98. The 36 operation codes, each with the ports its row lists; every other code is rejected. -/
def Obligations.DecodeOperationMap : Prop :=
  ∀ q : Ports,
    decode ⟨0x01#8, q⟩ = .ok .init ∧ decode ⟨0x02#8, q⟩ = .ok (.cfgSet q.field q.value) ∧
    decode ⟨0x03#8, q⟩ = .ok (.statsGet q.now q.rssi) ∧ decode ⟨0x04#8, q⟩ = .ok (.ppmSet q.ch q.sample) ∧
    decode ⟨0x05#8, q⟩ = .ok (.ppmGet q.ch) ∧ decode ⟨0x06#8, q⟩ = .ok (.streamTx q.streamId q.data) ∧
    decode ⟨0x10#8, q⟩ = .ok (.ppmEnc q.sample) ∧ decode ⟨0x11#8, q⟩ = .ok (.ppmDec q.code) ∧
    decode ⟨0x12#8, q⟩ = .ok (.ppmPack q.withCsum) ∧ decode ⟨0x13#8, q⟩ = .ok (.ppmUnpack q.bytes q.withCsum) ∧
    decode ⟨0x14#8, q⟩ = .ok (.csum q.bytes) ∧ decode ⟨0x15#8, q⟩ = .ok .frameBuild ∧
    decode ⟨0x16#8, q⟩ = .ok (.frameParse q.len) ∧ decode ⟨0x17#8, q⟩ = .ok .bufReset ∧
    decode ⟨0x18#8, q⟩ = .ok (.bufPush q.data) ∧ decode ⟨0x19#8, q⟩ = .ok (.bufPop q.count) ∧
    decode ⟨0x1A#8, q⟩ = .ok (.hdrBuild q.destId q.len) ∧ decode ⟨0x1B#8, q⟩ = .ok (.hdrParse q.bytes) ∧
    decode ⟨0x20#8, q⟩ = .ok .chGen ∧ decode ⟨0x21#8, q⟩ = .ok (.chAt q.index) ∧
    decode ⟨0x22#8, q⟩ = .ok (.clkTime q.now) ∧ decode ⟨0x23#8, q⟩ = .ok .clkSync ∧
    decode ⟨0x24#8, q⟩ = .ok (.hopEval q.now) ∧ decode ⟨0x25#8, q⟩ = .ok (.slotTurn q.now) ∧
    decode ⟨0x30#8, q⟩ = .ok (.stPush q.outcome) ∧ decode ⟨0x31#8, q⟩ = .ok .stRead ∧
    decode ⟨0x32#8, q⟩ = .ok (.stContact q.now) ∧ decode ⟨0x33#8, q⟩ = .ok .stIsconn ∧
    decode ⟨0x34#8, q⟩ = .ok (.stTochk q.now) ∧ decode ⟨0x35#8, q⟩ = .ok (.txnOpen q.now) ∧
    decode ⟨0x36#8, q⟩ = .ok .txnClose ∧ decode ⟨0x37#8, q⟩ = .ok (.toTxn q.now) ∧
    decode ⟨0x38#8, q⟩ = .ok (.toSup q.now) ∧ decode ⟨0x40#8, q⟩ = .ok (.evPost q.event) ∧
    decode ⟨0x41#8, q⟩ = .ok (.evStep q.event q.now) ∧ decode ⟨0x42#8, q⟩ = .ok (.loopTick q.now) ∧
    ∀ op : BitVec 8,
      op.toNat ∉ [0x01, 0x02, 0x03, 0x04, 0x05, 0x06] ∧
      op.toNat ∉ [0x10, 0x11, 0x12, 0x13, 0x14, 0x15, 0x16, 0x17, 0x18, 0x19, 0x1A, 0x1B] ∧
      op.toNat ∉ [0x20, 0x21, 0x22, 0x23, 0x24, 0x25] ∧
      op.toNat ∉ [0x30, 0x31, 0x32, 0x33, 0x34, 0x35, 0x36, 0x37, 0x38] ∧ op.toNat ∉ [0x40, 0x41, 0x42] →
      decode ⟨op, q⟩ = .error (.badOperation op)

/-- 30_encoding.md section 5. Decoding an encoded operation gives it back, with every operand at every value its port admits; a
request is decoded by its operation code alone to the operation of that code; no two operations share a request. -/
def Obligations.EncodeDecodeRoundTrip : Prop :=
  (∀ i : Instr, decode (encode i) = .ok i) ∧
  (∀ r i, decode r = .ok i → r.op = i.opcode ∧ decode { r with ports := i.onPorts } = .ok i) ∧
  (∀ i j : Instr, encode i = encode j → i = j)

/-! ### PPM values and sub-frames -/

/-- Rules R110, R111 (floor of the linear map: D8). -/
def Obligations.PpmValueMaps : Prop :=
  ∀ s : State,
    exec (.ppmEnc .noInput) s = .next { s with result := .code 0 } ∧
    (∀ us : BitVec 16, ∃ code : BitVec 9,
      exec (.ppmEnc (.valid us)) s = .next { s with result := .code code } ∧
      code.toNat = 1 + (min (max us.toNat Config.params.ppmMinUs) Config.params.ppmMaxUs - Config.params.ppmMinUs) * 510 /
        (Config.params.ppmMaxUs - Config.params.ppmMinUs) ∧
      1 ≤ code.toNat ∧ (us.toNat ≤ Config.params.ppmMinUs → code = 1) ∧ (Config.params.ppmMaxUs ≤ us.toNat → code = 511)) ∧
    exec (.ppmDec 0) s = .next { s with result := .sample .timeout } ∧
    ∀ code : BitVec 9, code ≠ 0 → ∃ us : BitVec 16,
      exec (.ppmDec code) s = .next { s with result := .sample (.valid us) } ∧
      us.toNat = Config.params.ppmMinUs +
        (code.toNat - 1) * (Config.params.ppmMaxUs - Config.params.ppmMinUs) / 510 ∧
      (code = 1 → us.toNat = Config.params.ppmMinUs) ∧ (code = 511 → us.toNat = Config.params.ppmMaxUs)

/-- Rule R112 (a), (b), (d), (e), the spec's own inference from R110 and R111, at every parameter set. -/
def Obligations.PpmRoundTripLaws : Prop :=
  ∀ p : Params,
    (∀ v : BitVec 16, p.ppmMinUs ≤ v.toNat → v.toNat ≤ p.ppmMaxUs → ∃ v' : BitVec 16,
      ppmSampleOf p (ppmCodeOf p (.valid v)) = .valid v' ∧ v'.toNat ≤ v.toNat ∧
      (v.toNat - v'.toNat) * 510 < (p.ppmMaxUs - p.ppmMinUs) + 510 ∧
      (510 ∣ p.ppmMaxUs - p.ppmMinUs → v.toNat - v'.toNat ≤ (p.ppmMaxUs - p.ppmMinUs) / 510 - 1)) ∧
    (510 ∣ p.ppmMaxUs - p.ppmMinUs → ∀ c : BitVec 9, c ≠ 0 → ∃ us, ppmSampleOf p c = .valid us ∧ ppmCodeOf p (.valid us) = c) ∧
    ppmSampleOf p (ppmCodeOf p .noInput) = .timeout ∧
    (∀ u v : BitVec 16, u.toNat ≤ v.toNat → (ppmCodeOf p (.valid u)).toNat ≤ (ppmCodeOf p (.valid v)).toNat)

/-- Rule R115 (bit `i` of the LSB byte is channel `i`'s: D7; the checksum: D10). -/
def Obligations.PpmPackLayout : Prop :=
  ∀ (withCsum : Bool) (s : State), ∃ bytes : List Byte,
    exec (.ppmPack withCsum) s = .next { s with result := .bytes bytes } ∧
    bytes.length = 1 + Config.params.numPpmCh + withCsum.toNat ∧
    (∀ i tx, i < Config.params.numPpmCh → s.ppmTx.toList[i]? = some tx →
      (bytes.getD 0 0).getLsbD i = (ppmCodeOf Config.params tx).getLsbD 0 ∧
      (bytes.getD (1 + i) 0).toNat = (ppmCodeOf Config.params tx).toNat / 2) ∧
    (∀ i, Config.params.numPpmCh ≤ i → (bytes.getD 0 0).getLsbD i = false) ∧
    (withCsum = true →
      (bytes.getD (1 + Config.params.numPpmCh) 0).toNat = byteSum (bytes.take (1 + Config.params.numPpmCh)) % 256)

/-- Rule R116: a wrong length is refused; a checksum that does not agree makes every channel `Timeout`; otherwise every channel gets
the sample of its 9-bit code. Nothing else is written. -/
def Obligations.PpmUnpackWritesSamples : Prop :=
  ∀ (bytes : List Byte) (withCsum : Bool) (s : State),
    (bytes.length ≠ 1 + Config.params.numPpmCh + withCsum.toNat → exec (.ppmUnpack bytes withCsum) s = .fault .badOperand) ∧
    (bytes.length = 1 + Config.params.numPpmCh + withCsum.toNat → ∃ (ok : Bool) (rx : Vector RxSample 8),
      exec (.ppmUnpack bytes withCsum) s = .next { s with ppmRx := rx, result := .ok ok } ∧
      (ok = false ↔ withCsum = true ∧ byteSum (bytes.take (1 + Config.params.numPpmCh)) % 256 ≠
        (bytes.getD (1 + Config.params.numPpmCh) 0).toNat) ∧
      ∀ (i : Nat) (h : i < 8), rx[i] =
        if Config.params.numPpmCh ≤ i then s.ppmRx[i]
        else if ok then ppmSampleOf Config.params
          (BitVec.ofNat 9 (2 * (bytes.getD (1 + i) 0).toNat + (bytes.getD 0 0).toNat / 2 ^ i % 2))
        else .timeout)

/-- 40_packet_codec.md section 2: unpacking what `PPM.PACK` packed gives, on every channel, the decoded code of the sample sent. -/
def Obligations.PpmPackThenUnpack : Prop :=
  ∀ (withCsum : Bool) (s t : State), ∃ (bytes : List Byte) (rx : Vector RxSample 8),
    exec (.ppmPack withCsum) s = .next { s with result := .bytes bytes } ∧
    exec (.ppmUnpack bytes withCsum) t = .next { t with ppmRx := rx, result := .ok true } ∧
    ∀ (i : Nat) (h : i < 8), i < Config.params.numPpmCh →
      rx[i] = ppmSampleOf Config.params (ppmCodeOf Config.params s.ppmTx[i])

/-- Rule R118: any length 0 to 255 (D10); a longer sequence is refused (`RefusalReasons`, notes/assumptions/12.md). -/
def Obligations.ChecksumIsByteSum : Prop :=
  ∀ (bytes : List Byte) (s : State), bytes.length ≤ 255 →
    exec (.csum bytes) s = .next { s with result := .sum (BitVec.ofNat 8 (byteSum bytes)) }

/-! ### Header -/

/-- Rules R120 and R121: the five bytes, most significant byte of the ID first (D13), and back; the two are inverse. -/
def Obligations.HeaderFields : Prop :=
  ∀ s : State,
    (∀ (destId : Word32) (len : BitVec 8), exec (.hdrBuild destId len) s = .next { s with
      result := .bytes [BitVec.ofNat 8 (destId.toNat / 16777216), BitVec.ofNat 8 (destId.toNat / 65536),
        BitVec.ofNat 8 (destId.toNat / 256), BitVec.ofNat 8 destId.toNat, len] }) ∧
    (∀ b0 b1 b2 b3 len : Byte, exec (.hdrParse [b0, b1, b2, b3, len]) s = .next { s with
      result := .header (BitVec.ofNat 32 (b0.toNat * 16777216 + b1.toNat * 65536 + b2.toNat * 256 + b3.toNat)) len }) ∧
    (∀ bytes : List Byte, bytes.length ≠ 5 → exec (.hdrParse bytes) s = .fault .badOperand) ∧
    (∀ (destId : Word32) (len : BitVec 8), ∃ bytes, exec (.hdrBuild destId len) s = .next { s with result := .bytes bytes } ∧
      exec (.hdrParse bytes) s = .next { s with result := .header destId len }) ∧
    (∀ bytes : List Byte, bytes.length = 5 → ∃ destId len,
      exec (.hdrParse bytes) s = .next { s with result := .header destId len } ∧
      exec (.hdrBuild destId len) s = .next { s with result := .bytes bytes })

/-! ### Packet buffer -/

/-- Rule R135. The bytes pushed stand after the valid ones, every other byte of the buffer reads as before; a push that would exceed
`maxPacketLen` answers 0 and changes nothing; an empty sequence is refused (one of more than 255 bytes too: `RefusalReasons`,
notes/assumptions/12.md). -/
def Obligations.BufPushAppends : Prop :=
  ∀ (data : List Byte) (maxLen : BitVec 8) (s : State), BufferInv s → s.cfg.maxPacketLen = some maxLen →
    exec (.bufPush []) s = .fault .badOperand ∧
    (1 ≤ data.length → data.length ≤ 255 → maxLen.toNat < s.pktLen.toNat + data.length →
      exec (.bufPush data) s = .next { s with result := .ok false }) ∧
    (1 ≤ data.length → s.pktLen.toNat + data.length ≤ maxLen.toNat → ∃ mem : Memory,
      exec (.bufPush data) s = .next { s with
        pktBuf := mem, pktLen := BitVec.ofNat 8 (s.pktLen.toNat + data.length), result := .ok true } ∧
      ∀ a, Memory.read mem a =
        if s.pktLen.toNat ≤ a ∧ a < s.pktLen.toNat + data.length then data.getD (a - s.pktLen.toNat) 0
        else Memory.read s.pktBuf a)

/-- Rules R136, R137: the reset empties the buffer; a pop takes the next bytes, as many as there are and at most `n`, and moves the
read cursor past them. -/
def Obligations.BufResetAndPop : Prop :=
  ∀ (n : BitVec 8) (s : State), exec .bufReset s = .next { s with pktLen := 0, pktRd := 0, result := .none } ∧ ∃ data : List Byte,
    exec (.bufPop n) s = .next { s with
      pktRd := BitVec.ofNat 8 (s.pktRd.toNat + min n.toNat (s.pktLen.toNat - s.pktRd.toNat)), result := .data data } ∧
    data.length = min n.toNat (s.pktLen.toNat - s.pktRd.toNat) ∧
    ∀ i, i < data.length → data.getD i 0 = Memory.read s.pktBuf (s.pktRd.toNat + i)

/-- 40_packet_codec.md section 6, "sequences of `BUF.POP` whose results concatenate to the payload": whatever the sizes of the
chunks, once they sum to the frame's length the bytes taken after a `FRAME.BUILD` are the frame. -/
def Obligations.BufPopChunksConcatenate : Prop :=
  ∀ (p : Params) (s t : State) (f : BuiltFrame), frameBuild p s = .ok (f, t) →
    ∀ chunks : List (BitVec 8), f.len.toNat ≤ (chunks.map BitVec.toNat).sum → poppedBytes chunks t = pktBytes t

/-! ### Frames -/

/-- Rule R125 in PPM-only mode: the sub-frame with its checksum, or nothing; the toggle and the queues stay. -/
def Obligations.FrameBuildPpmOnly : Prop :=
  ∀ (s : State) (ppmSend : Bool) (maxLen : BitVec 8) (dest : Word32), BufferInv s → s.cfg.ppmOnly = some true →
    s.cfg.ppmSend = some ppmSend → s.cfg.maxPacketLen = some maxLen → s.cfg.peerId = some dest →
    let sub := if ppmSend then ppmPack Config.params s.ppmTx true else []
    (maxLen.toNat < sub.length → exec .frameBuild s = .fault .configInvalid) ∧
    (sub.length ≤ maxLen.toNat → ∃ mem : Memory,
      exec .frameBuild s = .next { s with
        pktBuf := mem, pktLen := BitVec.ofNat 8 sub.length, pktRd := 0, txDest := dest,
        result := .built (BitVec.ofNat 8 sub.length) dest ppmSend } ∧
      ∀ a, Memory.read mem a = if a < sub.length then sub.getD a 0 else Memory.read s.pktBuf a)

/-- Rule R125 in multiplexed mode, at every parameter set: sub-frame, selector, stream bytes, parity; the toggle flips whether or not
bytes were waiting (D15); only the selected stream's oldest bytes leave its queue. -/
def Obligations.FrameBuildMultiplexed : Prop :=
  ∀ (p : Params) (s : State) (ppmSend : Bool) (maxLen : BitVec 8) (dest : Word32), BufferInv s → s.cfg.ppmOnly = some false →
    s.cfg.ppmSend = some ppmSend → s.cfg.maxPacketLen = some maxLen → s.cfg.peerId = some dest →
    let sub := if ppmSend then ppmPack p s.ppmTx false else []
    let queue := if s.streamToggle then s.txQueueAux else s.txQueuePrimary
    let n := min queue.length (maxLen.toNat - (sub.length + 1 + p.fecNparity))
    let body := sub ++ [if s.streamToggle then 0x01#8 else 0x00#8] ++ queue.take n
    let payload := body ++ p.fecEncode body
    (maxLen.toNat < sub.length + 1 + p.fecNparity → runAt p .frameBuild s = .error .configInvalid) ∧
    (sub.length + 1 + p.fecNparity ≤ maxLen.toNat →
      payload.length ≤ maxLen.toNat ∧
      ∃ mem : Memory,
        runAt p .frameBuild s = .ok { s with
          streamToggle := !s.streamToggle
          txQueuePrimary := if s.streamToggle then s.txQueuePrimary else s.txQueuePrimary.drop n
          txQueueAux := if s.streamToggle then s.txQueueAux.drop n else s.txQueueAux
          pktBuf := mem, pktLen := BitVec.ofNat 8 payload.length, pktRd := 0, txDest := dest
          result := .built (BitVec.ofNat 8 payload.length) dest (ppmSend || decide (0 < n)) } ∧
        ∀ a, Memory.read mem a = if a < payload.length then payload.getD a 0 else Memory.read s.pktBuf a)

/-- Rules R130 and R260, R270: with its two flags set `FRAME.PARSE` always answers and writes `ppmRx` only; a declared length that
differs from the bytes received is `Failure` and writes nothing. That the stream is none and the data empty with `Error` or `Failure`,
where rule R130 stops before it assigns them, is the model's choice (notes/assumptions/13.md). -/
def Obligations.FrameParseWritesOnlySamples : Prop :=
  ∀ (len : BitVec 8) (s : State) (ppmOnly ppmRecv : Bool), s.cfg.ppmOnly = some ppmOnly → s.cfg.ppmRecv = some ppmRecv →
    ∃ (outcome : OutcomeCode) (id : Option StreamId) (data : List Byte) (rx : Vector RxSample 8),
      exec (.frameParse len) s = .next { s with ppmRx := rx, result := .parsed outcome id data } ∧
      (outcome = .error ∨ outcome = .failure → id = none ∧ data = []) ∧ (id = none → data = []) ∧
      (outcome = .failure → rx = s.ppmRx) ∧ (ppmRecv = false → rx = s.ppmRx) ∧
      (len ≠ s.pktLen → outcome = .failure) ∧
      ∀ (i : Nat) (h : i < 8), Config.params.numPpmCh ≤ i → rx[i] = s.ppmRx[i]

/-- Rule R130 in PPM-only mode, when the declared length is the number of bytes received. The stream none and the data empty with
`Failure` are the model's choice (notes/assumptions/13.md): the rule stops before it assigns them. -/
def Obligations.FrameParsePpmOnly : Prop :=
  ∀ (s : State), s.cfg.ppmOnly = some true →
    (s.cfg.ppmRecv = some false → exec (.frameParse s.pktLen) s = .next { s with
      result := .parsed (if s.pktLen = 0 then .good else .failure) none [] }) ∧
    (s.cfg.ppmRecv = some true → s.pktLen.toNat ≠ Config.params.numPpmCh + 2 →
      exec (.frameParse s.pktLen) s = .next { s with result := .parsed .failure none [] }) ∧
    (s.cfg.ppmRecv = some true → s.pktLen.toNat = Config.params.numPpmCh + 2 → ∃ (ok : Bool) (rx : Vector RxSample 8),
      exec (.ppmUnpack (pktBytes s) true) s = .next { s with ppmRx := rx, result := .ok ok } ∧
      exec (.frameParse s.pktLen) s = .next { s with
        ppmRx := rx, result := .parsed (if ok then .good else .error) none [] })

/-- Rule R130 in multiplexed mode, at every parameter set, when the declared length is the number of bytes received: too short is
`Failure`; uncorrectable is `Error`; otherwise the body (the corrected one where the decoder corrected) is taken apart, a reserved
selector delivering nothing (D14). The stream none and the data empty with `Failure` and `Error` are the model's choice
(notes/assumptions/13.md): the rule stops before it assigns them. -/
def Obligations.FrameParseMultiplexed : Prop :=
  ∀ (p : Params) (s : State) (ppmRecv : Bool), s.cfg.ppmOnly = some false → s.cfg.ppmRecv = some ppmRecv →
    let o := if ppmRecv then 1 + p.numPpmCh else 0
    (s.pktLen.toNat < o + 1 + p.fecNparity →
      runAt p (.frameParse s.pktLen) s = .ok { s with result := .parsed .failure none [] }) ∧
    (o + 1 + p.fecNparity ≤ s.pktLen.toNat → p.fecDecode (pktBytes s) = .uncorrectable →
      runAt p (.frameParse s.pktLen) s = .ok { s with result := .parsed .error none [] }) ∧
    (∀ (outcome : OutcomeCode) (body : List Byte), o + 1 + p.fecNparity ≤ s.pktLen.toNat →
      (outcome = .good ∧ p.fecDecode (pktBytes s) = .clean ∧ body = (pktBytes s).take (s.pktLen.toNat - p.fecNparity)) ∨
        (outcome = .corrected ∧ p.fecDecode (pktBytes s) = .corrected body) →
      ∃ rx : Vector RxSample 8,
        runAt p (.frameParse s.pktLen) s = .ok { s with
          ppmRx := rx
          result := if body.getD o 0 = 0x00#8 then .parsed outcome (some .primary) (body.drop (o + 1))
            else if body.getD o 0 = 0x01#8 then .parsed outcome (some .aux) (body.drop (o + 1))
            else .parsed outcome none [] } ∧
        ∀ (i : Nat) (h : i < 8), rx[i] =
          if ppmRecv = true ∧ i < p.numPpmCh then
            ppmSampleOf p (BitVec.ofNat 9 (2 * (body.getD (1 + i) 0).toNat + (body.getD 0 0).toNat / 2 ^ i % 2))
          else s.ppmRx[i])

/-- Rule R132, the spec's own inference: what one node builds, another with matching flags that received exactly those bytes parses
as `Good`, with the stream and the bytes selected and the samples sent, when the black box has `FecRoundTrip`. -/
def Obligations.BuildThenParse : Prop :=
  ∀ (p : Params), p.FecRoundTrip → ∀ (a a' b : State) (f : BuiltFrame), BufferInv a → frameBuild p a = .ok (f, a') →
    b.cfg.ppmOnly = a.cfg.ppmOnly → b.cfg.ppmRecv = a.cfg.ppmSend → b.pktLen = f.len → pktBytes b = pktBytes a' →
    ∃ (g : ParsedFrame) (b' : State), frameParse p f.len b = .ok (g, b') ∧ g.outcome = .good ∧
      (a.cfg.ppmOnly = some true → g.streamId = none ∧ g.data = []) ∧
      (a.cfg.ppmOnly = some false → ∃ n,
        g.streamId = some (streamOfToggle a.streamToggle) ∧ g.data = (txQueue a (streamOfToggle a.streamToggle)).take n ∧
        txQueue a' (streamOfToggle a.streamToggle) = (txQueue a (streamOfToggle a.streamToggle)).drop n) ∧
      (a.cfg.ppmSend = some true → ∀ (i : Nat) (h : i < 8), i < p.numPpmCh →
        b'.ppmRx[i] = ppmSampleOf p (ppmCodeOf p a.ppmTx[i])) ∧
      (a.cfg.ppmSend = some false → b'.ppmRx = b.ppmRx)

/-! ### Channel table -/

/-- Rules R150, R151, at every parameter set: an unset input is refused; the key is the coordinator's ID (rule R30); the enumeration
is the channels 0 to 250 of the spaced range in rising order; the shuffle draws byte `i` of the keyed stream, byte `i mod DIGEST_LEN`
of the hash of counter `i div DIGEST_LEN`, for each index `i`; the table is the first entries, at most 32 and an even number (D20,
D21). -/
def Obligations.ChannelShuffle : Prop :=
  ∀ (p : Params) (s : State),
    (s.cfg.role = none ∨ s.cfg.role = some .coordinator ∧ s.cfg.deviceId = none ∨ s.cfg.role = some .peer ∧ s.cfg.peerId = none ∨
      s.cfg.datarate = none ∨ s.cfg.minChannel = none ∨ s.cfg.maxChannel = none → runAt p .chGen s = .error .configUnset) ∧
    ∀ (role : Role) (cid datarate : Word32) (minChannel maxChannel : BitVec 8),
    s.cfg.role = some role → (if role = .coordinator then s.cfg.deviceId else s.cfg.peerId) = some cid →
    s.cfg.datarate = some datarate → s.cfg.minChannel = some minChannel → s.cfg.maxChannel = some maxChannel →
    let g := p.guardOf datarate
    let lo := minChannel.toNat + g
    let work := (List.range 251).filter fun c => lo ≤ c ∧ c + g ≤ maxChannel.toNat ∧ (c - lo) % p.spacingOf datarate = 0
    let n := work.length
    let draw := fun i => ((p.keyedHash cid (BitVec.ofNat 32 (i / p.digestLen))).getD (i % p.digestLen) 0).toNat
    let shuffled := (List.range n).foldl (fun w i =>
      (w.set i (w.getD (i + draw i % (n - i)) 0)).set (i + draw i % (n - i)) (w.getD i 0)) work
    ∃ (table : Vector (BitVec 8) 32) (count : Fin 33),
      runAt p .chGen s = .ok { s with
        channelTable := table, channelCount := count, channelIndex := 0, result := .count (BitVec.ofNat 6 count.val) } ∧
      count.val = min n 32 - min n 32 % 2 ∧
      (∀ k, k < count.val → (table.toList.getD k 0).toNat = shuffled.getD k 0) ∧
      (∀ k, count.val ≤ k → table.toList.getD k 0 = s.channelTable.toList.getD k 0)

/-- Rule R152, the spec's own inference from R150: after `CH.GEN` the count is even, the entries are pairwise distinct, and each lies
on the spaced grid between the guarded ends and at most 250. With an input unset the operation is refused (rule R150). -/
def Obligations.ChannelTableInvariants : Prop :=
  ∀ s : State,
    (tableInputs s.cfg = none → exec .chGen s = .fault .configUnset) ∧
    ∀ t : TableInputs, tableInputs s.cfg = some t → ∃ (table : Vector (BitVec 8) 32) (count : Fin 33),
      exec .chGen s = .next { s with
        channelTable := table, channelCount := count, channelIndex := 0, result := .count (BitVec.ofNat 6 count.val) } ∧
      count.val % 2 = 0 ∧
      (∀ j k, j < k → k < count.val → table.toList.getD j 0 ≠ table.toList.getD k 0) ∧
      (∀ k, k < count.val →
        t.minChannel.toNat + Config.params.guardOf t.datarate ≤ (table.toList.getD k 0).toNat ∧
        (table.toList.getD k 0).toNat + Config.params.guardOf t.datarate ≤ t.maxChannel.toNat ∧
        (table.toList.getD k 0).toNat ≤ 250 ∧
        ((table.toList.getD k 0).toNat - (t.minChannel.toNat + Config.params.guardOf t.datarate)) %
          Config.params.spacingOf t.datarate = 0)

/-- Rule R155 (the reduction modulo the count: D21). -/
def Obligations.ChannelAtIndex : Prop :=
  ∀ (n : BitVec 32) (s : State),
    (s.channelCount = 0 → exec (.chAt n) s = .fault .noChannels) ∧
    (s.channelCount ≠ 0 →
      exec (.chAt n) s = .next { s with result := .channel (tableEntry s (n.toNat % s.channelCount.val)) })

/-! ### Clock, hop, slot -/

/-- Rule R157. -/
def Obligations.LogicalClock : Prop :=
  ∀ (now : Tick) (s : State),
    (s.cfg.role = some .coordinator → exec (.clkTime now) s = .next { s with result := .time now }) ∧
    (s.cfg.role = some .peer → exec (.clkTime now) s = .next { s with
      result := .time (BitVec.ofNat 32 (now.toNat + s.clockSkewMs.toNat)) }) ∧
    (s.cfg.role = none → exec (.clkTime now) s = .fault .configUnset)

/-- Rule R158: no effect on a coordinator; on a peer the skew formula; and, the property the rule derives, whatever the preamble offset
is: at index 0 and without a wrap the learned skew gives the clock's phase at the start of the packet. A coordinator reads only its role
(notes/assumptions/10.md). -/
def Obligations.SkewLearning : Prop :=
  ∀ s : State,
    (s.cfg.role = some .coordinator → exec .clkSync s = .next { s with result := .skew s.clockSkewMs }) ∧
    (s.cfg.role = some .peer → s.channelCount = 0 → exec .clkSync s = .fault .noChannels) ∧
    ∀ (period : Period) (datarate : Word32), s.cfg.role = some .peer → s.channelCount ≠ 0 →
      s.cfg.packetPeriodMs = some period → s.cfg.datarate = some datarate →
      let cycle := period.ms.toNat * s.channelCount.val
      let skew := fun offset : Nat =>
        cycle - s.packetStartTimestamp.toNat % cycle + offset + period.ms.toNat * s.channelIndex.val
      let learned := BitVec.ofNat 32 (skew (Config.params.preambleOffsetOf datarate))
      exec .clkSync s = .next { s with clockSkewMs := learned, result := .skew learned } ∧
      ∀ offset : Nat, s.channelIndex = 0 → s.packetStartTimestamp.toNat + skew offset < 4294967296 →
        (s.packetStartTimestamp.toNat + (BitVec.ofNat 32 (skew offset)).toNat) % cycle = offset % cycle

/-- Rule R160 (the order of the tests: D24); the period is read only where the rule's formula reads it. -/
def Obligations.HopEvaluation : Prop :=
  ∀ (now : Tick) (s : State),
    (s.channelCount = 0 → exec (.hopEval now) s = .fault .noChannels) ∧
    (s.channelCount ≠ 0 → s.cfg.role = none → exec (.hopEval now) s = .fault .configUnset) ∧
    (∀ role, s.channelCount ≠ 0 → s.cfg.role = some role → ¬ (role = .peer ∧ s.connState = .disconnected) →
      s.cfg.packetPeriodMs = none → exec (.hopEval now) s = .fault .configUnset) ∧
    ∀ (role : Role) (period : Period), s.channelCount ≠ 0 → s.cfg.role = some role → s.cfg.packetPeriodMs = some period →
      let t := if role = .coordinator then now.toNat else (now.toNat + s.clockSkewMs.toNat) % 4294967296
      let idx := if role = .peer ∧ s.connState = .disconnected then 0 else t / period.ms.toNat % s.channelCount.val
      let drop := decide (idx ≠ s.channelIndex.val ∧ role = .peer ∧ s.connState = .connected ∧
        Config.params.connectTimeoutMs ≤ (now.toNat + 4294967296 - s.lastContactTimestamp.toNat) % 4294967296)
      ∃ index : Fin 32, index.val = (if drop then 0 else idx) ∧ index.val < s.channelCount.val ∧
        exec (.hopEval now) s = .next { s with
          connState := if drop then .disconnected else s.connState, channelIndex := index
          result := .hop (tableEntry s index.val) (index != s.channelIndex) }

/-- Rule R162 (the peer's and the one-way test: D22). That a peer on a one-way link, which never has a turn (corner case (c)), is
answered with the period unset too is the model's choice (notes/assumptions/10.md). -/
def Obligations.SendSlotTest : Prop :=
  ∀ (now : Tick) (s : State),
    (∀ (oneWay : Bool) (role : Role) (period : Period), s.cfg.oneWayLink = some oneWay → s.cfg.role = some role →
      s.cfg.packetPeriodMs = some period →
      let t := if role = .coordinator then now.toNat else (now.toNat + s.clockSkewMs.toNat) % 4294967296
      let phase := (t + 4294967295) % 4294967296
      exec (.slotTurn now) s = .next { s with result := .myTurn (decide (
        if oneWay then role = .coordinator ∧ phase % period.ms.toNat = 0
        else if role = .coordinator then phase % (2 * period.ms.toNat) = 0
        else phase % (2 * period.ms.toNat) = period.ms.toNat)) }) ∧
    (s.cfg.oneWayLink = some true → s.cfg.role = some .peer →
      exec (.slotTurn now) s = .next { s with result := .myTurn false }) ∧
    (s.cfg.oneWayLink = none ∨ s.cfg.role = none ∨
        s.cfg.packetPeriodMs = none ∧ ¬ (s.cfg.oneWayLink = some true ∧ s.cfg.role = some .peer) →
      exec (.slotTurn now) s = .fault .configUnset)

/-- Rule R163 (a) to (c), the spec's own inference, for logical times that do not wrap. Clauses (b) and (c) are stated for periods of
at least 2 ms: with a period of 1 ms `t div Pd` is odd at `t = 1`, so they fail of the rules themselves (NOTES.md). -/
def Obligations.SlotAlternation : Prop :=
  ∀ (period : Period),
    (∀ start : Nat, 1 ≤ start → start + 2 * period.ms.toNat ≤ 4294967296 → ∃ c q : Nat,
      start ≤ c ∧ c < start + 2 * period.ms.toNat ∧ start ≤ q ∧ q < start + 2 * period.ms.toNat ∧
      (c + period.ms.toNat = q ∨ q + period.ms.toNat = c) ∧
      ∀ t : Nat, start ≤ t → t < start + 2 * period.ms.toNat →
        (slotTest false .coordinator period (BitVec.ofNat 32 t) = true ↔ t = c) ∧
        (slotTest false .peer period (BitVec.ofNat 32 t) = true ↔ t = q)) ∧
    (∀ (t : Tick) (count : Nat), 2 ≤ period.ms.toNat → 1 ≤ t.toNat → 0 < count → count % 2 = 0 →
      (slotTest false .coordinator period t = true → t.toNat / period.ms.toNat % count % 2 = 0) ∧
      (slotTest false .peer period t = true → t.toNat / period.ms.toNat % count % 2 = 1))

/-! ### Statistics and timeouts -/

/-- Rule R180: every code moves from position `k` to `k + 1`, the oldest is discarded, the new one is at position 0. -/
def Obligations.OutcomePush : Prop :=
  ∀ s : State,
    (∀ outcome : Nat, outcome ≤ 3 → ∃ h : Vector (BitVec 32) 4,
      exec (.stPush outcome) s = .next { s with history := h, result := .none } ∧
      codeAt h 0 = BitVec.ofNat 2 outcome ∧ ∀ k, k < 63 → codeAt h (k + 1) = codeAt s.history k) ∧
    (∀ outcome : Nat, 3 < outcome → exec (.stPush outcome) s = .fault .badOperand)

/-- Rules R182, R242: the counters are the numbers of positions holding each code; they sum to 64; the score has no clamp and lies in
0 to 128. `STATS.GET` checks the contact timeout first, then reads the same and the latch; `rssi` is passed through. -/
def Obligations.StatisticsRead : Prop :=
  ∀ (now : Tick) (rssi : BitVec 8) (s : State),
    let good := positionCount s.history 0
    let corrected := positionCount s.history 1
    let error := positionCount s.history 2
    let failure := positionCount s.history 3
    let quality : Int := 64 + good - error - failure
    exec .stRead s = .next { s with result := .counters good corrected error failure quality } ∧
    good + corrected + error + failure = 64 ∧ 0 ≤ quality ∧ quality ≤ 128 ∧
    ∃ conn : ConnState,
      (conn = .connected ↔ s.connState = .connected ∧
        (now.toNat + 4294967296 - s.lastContactTimestamp.toNat) % 4294967296 < Config.params.connectTimeoutMs) ∧
      exec (.statsGet now rssi) s = .next { s with
        connState := conn
        result := .stats good corrected error failure quality rssi (decide (conn = .connected)) }

/-- Rule R183 (a), (b), (c), the spec's own inference. -/
def Obligations.LinkQualityLaws : Prop :=
  let q : BitVec 2 → Int := fun c => if c = 0 then 1 else if c = 1 then 0 else -1
  (∀ (h : Vector (BitVec 32) 4) (c : BitVec 2), linkQuality (pushHistory c h) = linkQuality h + q c - q (codeAt h 63)) ∧
  (∀ n : Nat, n ≤ 64 → linkQuality ((pushHistory 0)^[n] historyReset) = 2 * n) ∧
  linkQuality ((pushHistory 0)^[65] historyReset) = 128 ∧
  linkQuality (pushHistory 3 ((pushHistory 0)^[64] historyReset)) = 126

/-- Rules R186, R188, R190: a contact sets the latch and its time; `ST.ISCONN` reads the latch and compares no times; the check clears
it at an age of `CONNECT_TIMEOUT_MS` or more. -/
def Obligations.ConnectionLatch : Prop :=
  ∀ (now : Tick) (s : State),
    exec (.stContact now) s = .next { s with lastContactTimestamp := now, connState := .connected, result := .none } ∧
    exec .stIsconn s = .next { s with result := .connected (decide (s.connState = .connected)) } ∧
    let aged := decide (Config.params.connectTimeoutMs ≤ (now.toNat + 4294967296 - s.lastContactTimestamp.toNat) % 4294967296)
    exec (.stTochk now) s = .next { s with
      connState := if aged then .disconnected else s.connState, result := .timedOut aged }

/-- Rules R193, R194, R196, R198: both comparisons are strict (D32). Reading the period only while a transaction is open is the model's
reading of R196 (notes/assumptions/10.md). -/
def Obligations.TransactionAndSupervisor : Prop :=
  ∀ (now : Tick) (s : State),
    exec (.txnOpen now) s = .next { s with packetStartTimestamp := now, txnOpen := true, result := .none } ∧
    exec .txnClose s = .next { s with txnOpen := false, result := .none } ∧
    (s.txnOpen = false → exec (.toTxn now) s = .next { s with result := .expired false }) ∧
    (∀ period : Period, s.txnOpen = true → s.cfg.packetPeriodMs = some period → exec (.toTxn now) s = .next { s with
      result := .expired (decide (3 * period.ms.toNat <
        (now.toNat + 4294967296 - s.packetStartTimestamp.toNat) % 4294967296)) }) ∧
    (s.txnOpen = true → s.cfg.packetPeriodMs = none → exec (.toTxn now) s = .fault .configUnset) ∧
    exec (.toSup now) s = .next { s with
      result := .expired (decide (Config.params.supervisorTimeoutMs <
        (now.toNat + 4294967296 - s.lastEventTimestamp.toNat) % 4294967296)) }

/-! ### Configuration and callers -/

/-- Rule R240. -/
def Obligations.InitResets : Prop :=
  ∀ s : State, exec .init s = .next { s with
    history := Vector.replicate 4 0xFFFFFFFF#32, pktLen := 0, pktRd := 0, txnOpen := false, packetStartTimestamp := 0
    result := .none }

/-- Rule R241: an illegal field or value is refused; a legal one writes that register (and `maxPacketLen` with the datarate), makes the
table match the configuration again for fields 0 to 5, and posts `Initialize` on a node that was started, if the queue has room. -/
def Obligations.CfgSetWritesField : Prop :=
  ∀ (field : Nat) (value : BitVec 32) (s : State),
    (legalCfgValue Config.params field value = false → exec (.cfgSet field value) s = .fault .badOperand) ∧
    (legalCfgValue Config.params field value = true → ∃ t : State,
      exec (.cfgSet field value) s = .next t ∧
      t = { s with
        cfg := t.cfg, channelTable := t.channelTable, channelCount := t.channelCount, channelIndex := t.channelIndex
        eventQueue := t.eventQueue, wakeCount := t.wakeCount, result := .none } ∧
      (field = 0 → t.cfg = { s.cfg with role := some (if value = 0 then .peer else .coordinator) }) ∧
      (field = 1 → t.cfg = { s.cfg with deviceId := some value }) ∧
      (field = 2 → t.cfg = { s.cfg with peerId := some value }) ∧
      (field = 3 → t.cfg = { s.cfg with
        datarate := some value, maxPacketLen := some (Config.params.maxPacketLenOf value) }) ∧
      (field = 4 → t.cfg = { s.cfg with minChannel := some (BitVec.ofNat 8 value.toNat) }) ∧
      (field = 5 → t.cfg = { s.cfg with maxChannel := some (BitVec.ofNat 8 value.toNat) }) ∧
      (field = 6 → ∃ period : Period, t.cfg = { s.cfg with packetPeriodMs := some period } ∧ period.ms.toNat = value.toNat) ∧
      (field = 7 → t.cfg = { s.cfg with oneWayLink := some (decide (value = 1)) }) ∧
      (field = 8 → t.cfg = { s.cfg with ppmOnly := some (decide (value = 1)) }) ∧
      (field = 9 → t.cfg = { s.cfg with ppmSend := some (decide (value = 1)) }) ∧
      (field = 10 → t.cfg = { s.cfg with ppmRecv := some (decide (value = 1)) }) ∧
      (field ≤ 5 → t.channelIndex = 0 ∧ TableMatches Config.params t) ∧
      (6 ≤ field → t.channelTable = s.channelTable ∧ t.channelCount = s.channelCount ∧ t.channelIndex = s.channelIndex) ∧
      (s.fsmState = .uninitialized ∨ Config.params.eventQueueCap ≤ s.eventQueue.length →
        t.eventQueue = s.eventQueue ∧ t.wakeCount = s.wakeCount) ∧
      (s.fsmState ≠ .uninitialized → s.eventQueue.length < Config.params.eventQueueCap →
        t.eventQueue = s.eventQueue ++ [.initializeLink] ∧ t.wakeCount = s.wakeCount + 1))

/-- Rules R243, R244: one sample stored unclamped, one sample read with no side effect; a channel that does not exist is refused. -/
def Obligations.PpmSampleFiles : Prop :=
  ∀ (ch : Nat) (sample : TxSample) (s : State),
    (ch < Config.params.numPpmCh → ∃ tx : Vector TxSample 8,
      exec (.ppmSet ch sample) s = .next { s with ppmTx := tx, result := .none } ∧
      ∀ (i : Nat) (h : i < 8), tx[i] = if i = ch then sample else s.ppmTx[i]) ∧
    (∀ h : ch < 8, ch < Config.params.numPpmCh → exec (.ppmGet ch) s = .next { s with result := .sample s.ppmRx[ch] }) ∧
    (Config.params.numPpmCh ≤ ch → exec (.ppmSet ch sample) s = .fault .badOperand ∧ exec (.ppmGet ch) s = .fault .badOperand)

/-- Rule R245. -/
def Obligations.StreamQueueing : Prop :=
  ∀ (data : List Byte) (s : State),
    (exec (.streamTx 0 data) s = .next { s with
      txQueuePrimary := s.txQueuePrimary ++
        data.take (min data.length (Config.params.streamQueueCap - s.txQueuePrimary.length))
      result := .accepted (min data.length (Config.params.streamQueueCap - s.txQueuePrimary.length)) }) ∧
    (exec (.streamTx 1 data) s = .next { s with
      txQueueAux := s.txQueueAux ++ data.take (min data.length (Config.params.streamQueueCap - s.txQueueAux.length))
      result := .accepted (min data.length (Config.params.streamQueueCap - s.txQueueAux.length)) }) ∧
    ∀ streamId : Nat, 1 < streamId → exec (.streamTx streamId data) s = .fault .badOperand

/-! ### Sequencer: events, table, cascades -/

/-- Rule R212 (a full queue loses the event: D36). -/
def Obligations.EventPost : Prop :=
  ∀ (event : Nat) (s : State),
    (event ≤ 8 → s.eventQueue.length < Config.params.eventQueueCap → ∃ e : Event, eventCode e = event ∧
      exec (.evPost event) s = .next { s with
        eventQueue := s.eventQueue ++ [e], wakeCount := s.wakeCount + 1, result := .ok true }) ∧
    (event ≤ 8 → Config.params.eventQueueCap ≤ s.eventQueue.length →
      exec (.evPost event) s = .next { s with result := .ok false }) ∧
    (8 < event → exec (.evPost event) s = .fault .badOperand)

/-- Rules R213, R215: the transition table by the codes of R92 and R93 (one list a state, events in order), and the property that an
event with no transition changes nothing. -/
def Obligations.TransitionTable : Prop :=
  (∀ (st : FsmState) (e : Event),
    (transition st e).map fsmStateCode = ([
      [some 1, none, none, none, none, none, none, none, none],
      [none, some 2, none, none, none, none, none, some 7, some 8],
      [some 1, none, some 3, none, some 4, some 2, some 6, some 7, some 8],
      [some 1, none, some 3, some 4, none, some 2, some 6, some 7, some 8],
      [some 1, none, some 5, none, none, some 2, some 6, some 7, some 8],
      [some 1, none, some 5, some 2, none, some 2, some 6, some 7, some 8],
      [some 1, none, none, none, none, some 2, none, some 7, some 8],
      [some 1, none, none, none, none, none, none, none, some 8],
      [none, none, none, none, none, none, none, none, none]].getD (fsmStateCode st) []).getD (eventCode e) none) ∧
  (∀ (e : Event) (now : Tick) (s : State), transition s.fsmState e = none →
    exec (.evStep (eventCode e) now) s = .next { s with result := .none }) ∧
  ∀ (event : Nat) (now : Tick) (s : State), 8 < event → exec (.evStep event now) s = .fault .badOperand

/-- Rule R213: the transition happens first, then the entry action of the new state runs, then the event it returns is processed in the
same way, to the end: the bound of four transitions (the rule's derived property) cuts no cascade short. -/
def Obligations.CascadeRule : Prop :=
  (∀ (e : Event) (now : Tick) (st : FsmState) (s t : State), transition s.fsmState e = some st →
    (entryAction Config.params now st { s with fsmState := st } = .ok (none, t) →
      exec (.evStep (eventCode e) now) s = .next { t with result := .none }) ∧
    (∀ e', entryAction Config.params now st { s with fsmState := st } = .ok (some e', t) →
      exec (.evStep (eventCode e) now) s = exec (.evStep (eventCode e') now) t) ∧
    (∀ f, entryAction Config.params now st { s with fsmState := st } = .error f →
      exec (.evStep (eventCode e) now) s = .fault f)) ∧
  ∀ (p : Params) (e : Event) (now : Tick) (n : Nat) (s : State), 4 ≤ n → cascade p now n e s = cascade p now 4 e s

/-- Rules R221, R225, R267, R268: event `Timeout` in a running state empties the buffer, closes the transaction, counts, and re-enters
`RxMode`; event `RxMode` does the same without the count, and ends a `Timeout` state. Nothing else changes. -/
def Obligations.TimeoutAndRxModeEvents : Prop :=
  ∀ (now : Tick) (s : State),
    (s.fsmState ∈ [.rxMode, .rxData, .txStart, .txData] → exec (.evStep 6 now) s = .next { s with
      fsmState := .rxMode, pktLen := 0, pktRd := 0, txnOpen := false, timeouts := s.timeouts + 1
      trace := s.trace ++ [.armReceiver], result := .none }) ∧
    (s.fsmState ∈ [.rxMode, .rxData, .txStart, .txData, .timeout] → exec (.evStep 5 now) s = .next { s with
      fsmState := .rxMode, pktLen := 0, pktRd := 0, txnOpen := false
      trace := s.trace ++ [.armReceiver], result := .none })

/-- Rules R220, R240: event `Initialize` resets the history, the buffer and the transaction, identifies the chip, and ends in `RxMode`
with the chip configured and the receiver armed, or, when the identification fails, in `FatalError`. -/
def Obligations.InitializeEvent : Prop :=
  ∀ (now : Tick) (s : State) (idOk : Bool) (rest : List Bool) (used : Nat),
    s.fsmState ∈ [.uninitialized, .rxMode, .rxData, .txStart, .txData, .timeout, .error] →
    AnswerTaken s.answers.idOk Config.freeIdOk s.freeCount idOk rest used →
    (∀ deviceId peerId datarate, idOk = true → s.cfg.deviceId = some deviceId → s.cfg.peerId = some peerId →
      s.cfg.datarate = some datarate → exec (.evStep 0 now) s = .next { s with
        fsmState := .rxMode, history := Vector.replicate 4 0xFFFFFFFF#32, pktLen := 0, pktRd := 0, txnOpen := false
        packetStartTimestamp := 0, answers := { s.answers with idOk := rest }, freeCount := used
        trace := s.trace ++ [.resetAndIdentify, .configure deviceId peerId datarate, .armReceiver], result := .none }) ∧
    (idOk = true → s.cfg.deviceId = none ∨ s.cfg.peerId = none ∨ s.cfg.datarate = none →
      exec (.evStep 0 now) s = .fault .configUnset) ∧
    (idOk = false → exec (.evStep 0 now) s = .next { s with
      fsmState := .fatalError, history := Vector.replicate 4 0xFFFFFFFF#32, pktLen := 0, pktRd := 0, txnOpen := false
      packetStartTimestamp := 0, fatal := true, answers := { s.answers with idOk := rest }, freeCount := used
      trace := s.trace ++ [.resetAndIdentify], result := .none })

/-- Rules R226, R267, R268: event `Error` empties the buffer, closes the transaction, counts in `resets`, and continues with event
`Initialize` in state `Error`. -/
def Obligations.ErrorEvent : Prop :=
  ∀ (now : Tick) (s : State), s.fsmState ∈ [.initializing, .rxMode, .rxData, .txStart, .txData, .timeout] →
    exec (.evStep 7 now) s = exec (.evStep 0 now) { s with
      fsmState := .error, pktLen := 0, pktRd := 0, txnOpen := false, resets := s.resets + 1 }

/-- Rules R215, R227, R268: event `FatalError` halts the node with the failure indication on; no step leaves the state. -/
def Obligations.FatalErrorIsTerminal : Prop :=
  (∀ (now : Tick) (s : State), s.fsmState ∈ [.initializing, .rxMode, .rxData, .txStart, .txData, .timeout, .error] →
    exec (.evStep 8 now) s = .next { s with
      fsmState := .fatalError, pktLen := 0, pktRd := 0, txnOpen := false, fatal := true, result := .none }) ∧
  ∀ s t : State, s.fsmState = .fatalError → step s = .next t → t.fsmState = .fatalError

/-! ### Sequencer: reception and transmission -/

/-- Rules R222, R224, R262: when the transceiver reports a power-on reset at an interrupt, the event continues as `Error`. -/
def Obligations.TransceiverResetRaisesError : Prop :=
  ∀ (now : Tick) (s : State) (status : StatusAnswer) (rest : List StatusAnswer) (used : Nat),
    s.fsmState ∈ [.rxMode, .rxData, .txStart, .txData] →
    AnswerTaken s.answers.status Config.freeStatus s.freeCount status rest used → status.ok = false →
    exec (.evStep 2 now) s = exec (.evStep 7 now) { s with
      fsmState := if s.fsmState = .rxMode ∨ s.fsmState = .rxData then .rxData else .txData
      answers := { s.answers with status := rest }, freeCount := used, trace := s.trace ++ [.readStatusRegisters] }

/-- Rules R222, R100 (`RX.FAIL`): an interrupt of a reception that brings more bytes appends them and waits; one that brings more than
`maxPacketLen` bytes, or that fails, is counted as `Failure` and the receiver is armed afresh. -/
def Obligations.ReceiveContinuesOrFails : Prop :=
  ∀ (now : Tick) (s : State) (status : StatusAnswer) (answer : RxAnswer) (statusRest : List StatusAnswer)
    (rxRest : List RxAnswer) (used used' : Nat),
    s.fsmState ∈ [.rxMode, .rxData] → AnswerTaken s.answers.status Config.freeStatus s.freeCount status statusRest used →
    status.ok = true → AnswerTaken s.answers.rx Config.freeRx used answer rxRest used' →
    let polled : State := { s with
      fsmState := .rxData, packetStartTimestamp := if s.txnOpen then s.packetStartTimestamp else now, txnOpen := true
      answers := { s.answers with status := statusRest, rx := rxRest }, freeCount := used'
      trace := s.trace ++ [.readStatusRegisters, .pollRx], result := .none }
    let failed : State := { polled with
      fsmState := .rxMode, history := pushHistory 3 s.history, txnOpen := false, pktLen := 0, pktRd := 0
      trace := polled.trace ++ [.armReceiver] }
    (answer = .moreDataPending [] → exec (.evStep 2 now) s = .next polled) ∧
    (∀ bytes maxLen, answer = .moreDataPending bytes → s.cfg.maxPacketLen = some maxLen →
      s.pktLen.toNat + bytes.length ≤ maxLen.toNat → exec (.evStep 2 now) s = .next { polled with
        pktBuf := Memory.writeRange s.pktBuf s.pktLen.toNat bytes
        pktLen := BitVec.ofNat 8 (s.pktLen.toNat + bytes.length) }) ∧
    (answer = .fail → exec (.evStep 2 now) s = .next failed) ∧
    (∀ bytes maxLen, (answer = .moreDataPending bytes ∨ ∃ len, answer = .packetComplete len bytes) → bytes ≠ [] →
      s.cfg.maxPacketLen = some maxLen → maxLen.toNat < s.pktLen.toNat + bytes.length →
      exec (.evStep 2 now) s = .next failed)

/-- Rules R222, R100 (`RX.DONE`), R246: a completed packet is parsed and its outcome pushed. An invalid one delivers nothing and the
receiver is armed afresh; a valid one is a contact, teaches the clock of a peer on the synchronisation channel, is delivered, and the
event continues as `RxComplete`. -/
def Obligations.ReceiveCompletes : Prop :=
  ∀ (now : Tick) (s u : State) (status : StatusAnswer) (len : BitVec 8) (bytes : List Byte) (statusRest : List StatusAnswer)
    (rxRest : List RxAnswer) (used used' : Nat) (f : ParsedFrame),
    s.fsmState ∈ [.rxMode, .rxData] → AnswerTaken s.answers.status Config.freeStatus s.freeCount status statusRest used →
    status.ok = true → AnswerTaken s.answers.rx Config.freeRx used (.packetComplete len bytes) rxRest used' →
    (bytes = [] ∨ ∃ maxLen, s.cfg.maxPacketLen = some maxLen ∧ s.pktLen.toNat + bytes.length ≤ maxLen.toNat) →
    let received : State := { s with
      fsmState := .rxData, packetStartTimestamp := if s.txnOpen then s.packetStartTimestamp else now, txnOpen := true
      answers := { s.answers with status := statusRest, rx := rxRest }, freeCount := used'
      trace := s.trace ++ [.readStatusRegisters, .pollRx]
      pktBuf := Memory.writeRange s.pktBuf s.pktLen.toNat bytes
      pktLen := BitVec.ofNat 8 (s.pktLen.toNat + bytes.length) }
    frameParse Config.params len received = .ok (f, u) →
    (f.outcome = .error ∨ f.outcome = .failure → exec (.evStep 2 now) s = .next { u with
      fsmState := .rxMode, history := pushHistory (outcomeBits f.outcome) s.history, txnOpen := false, pktLen := 0, pktRd := 0
      trace := received.trace ++ [.armReceiver], result := .none }) ∧
    (∀ (role : Role) (skew : BitVec 32), f.outcome = .good ∨ f.outcome = .corrected → s.cfg.role = some role →
      ((role = .coordinator ∨ s.channelIndex ≠ 0) ∧ skew = s.clockSkewMs ∨
        role = .peer ∧ s.channelIndex = 0 ∧ s.channelCount ≠ 0 ∧ ∃ period datarate, s.cfg.packetPeriodMs = some period ∧
          s.cfg.datarate = some datarate ∧ skew = learnedSkew period s.channelCount.val received.packetStartTimestamp
            (Config.params.preambleOffsetOf datarate) 0) →
      exec (.evStep 2 now) s = exec (.evStep 3 now) { u with
        history := pushHistory (outcomeBits f.outcome) s.history, lastContactTimestamp := now, connState := .connected
        clockSkewMs := skew, txnOpen := false, pktLen := 0, pktRd := 0, trace := received.trace ++ deliveries f })

/-- Rule R223 (a peer with nothing to send: D18), entered by event `TxStart` in state `RxMode` or `RxComplete` in state `RxData`: out of
turn, or a peer with nothing to send, the node goes back to reception; else the frame is built, the transaction opened and as many
bytes as the transport takes at once are handed to it. -/
def Obligations.TransmitStart : Prop :=
  ∀ (event : Nat) (now : Tick) (s u : State) (oneWay : Bool) (role : Role) (period : Period) (f : BuiltFrame)
    (take : BitVec 8) (rest : List (BitVec 8)) (used : Nat),
    (event = 4 ∧ s.fsmState = .rxMode ∨ event = 3 ∧ s.fsmState = .rxData) → s.cfg.oneWayLink = some oneWay →
    s.cfg.role = some role → s.cfg.packetPeriodMs = some period →
    let turn := slotTest oneWay role period (logicalTime role s.clockSkewMs now)
    (turn = false → exec (.evStep event now) s = .next { s with
      fsmState := .rxMode, txnOpen := false, pktLen := 0, pktRd := 0, trace := s.trace ++ [.armReceiver], result := .none }) ∧
    (turn = true → frameBuild Config.params { s with fsmState := .txStart } = .ok (f, u) →
      (f.haveData = false → role = .peer → exec (.evStep event now) s = .next { u with
        fsmState := .rxMode, txnOpen := false, pktLen := 0, pktRd := 0, trace := s.trace ++ [.armReceiver], result := .none }) ∧
      (f.haveData = true ∨ role = .coordinator →
        AnswerTaken s.answers.take Config.freeTake s.freeCount take rest used →
        let sent := min take.toNat u.pktLen.toNat
        exec (.evStep event now) s = .next { u with
          packetStartTimestamp := now, txnOpen := true, answers := { s.answers with take := rest }, freeCount := used
          pktRd := BitVec.ofNat 8 sent
          trace := s.trace ++ [.armTransmitter (Memory.readRange u.pktBuf 0 sent) f.destId], result := .none }))

/-- Rule R224 (a failed transmission: D47): an interrupt of a transmission feeds the next bytes, or ends it. -/
def Obligations.TransmitInterrupt : Prop :=
  ∀ (now : Tick) (s : State) (status : StatusAnswer) (answer : TxAnswer) (statusRest : List StatusAnswer)
    (txRest : List TxAnswer) (used used' : Nat),
    s.fsmState ∈ [.txStart, .txData] → AnswerTaken s.answers.status Config.freeStatus s.freeCount status statusRest used →
    status.ok = true → AnswerTaken s.answers.tx Config.freeTx used answer txRest used' →
    let polled : State := { s with
      fsmState := .txData, answers := { s.answers with status := statusRest, tx := txRest }, freeCount := used'
      trace := s.trace ++ [.readStatusRegisters, .pollTx], result := .none }
    (∀ n, answer = .needsMoreData n →
      let sent := min n.toNat (s.pktLen.toNat - s.pktRd.toNat)
      exec (.evStep 2 now) s = .next { polled with
        pktRd := BitVec.ofNat 8 (s.pktRd.toNat + sent)
        trace := polled.trace ++ [.feed (Memory.readRange s.pktBuf s.pktRd.toNat sent)] }) ∧
    (answer = .sent ∨ answer = .fail → exec (.evStep 2 now) s = .next { polled with
      fsmState := .rxMode, txnOpen := false, pktLen := 0, pktRd := 0, trace := polled.trace ++ [.armReceiver] })

/-! ### Sequencer: the driving loop -/

/-- Rules R216 step 1, R71 (a), R265, R266 (b): on a signal the queue is drained oldest first. An interrupt at its head is removed and
discarded before the link has started; any other event at its head is removed and processed to the end of its cascade before the rest
of the tick, the later events among it, sees the state; each refreshes the supervisor's time; a refusal of one ends the tick. That the
queue is empty afterwards rests on `LOOP.TICK` being atomic (rule R68) and is the model's reading (notes/assumptions/16.md). -/
def Obligations.LoopTickDrainsQueue : Prop :=
  ∀ (now : Tick) (s : State), 0 < s.wakeCount →
    (∀ t, exec (.loopTick now) s = .next t → t.eventQueue = [] ∧ t.wakeCount = 0 ∧
      t.lastEventTimestamp = if s.eventQueue = [] then s.lastEventTimestamp else now) ∧
    (∀ (e : Event) (es : List Event), s.eventQueue = e :: es →
      let early := e = .internalInterrupt ∧ (s.fsmState = .uninitialized ∨ s.fsmState = .initializing)
      let taken : State := { s with eventQueue := es, wakeCount := 0, lastEventTimestamp := now }
      (early → exec (.loopTick now) s = exec (.loopTick now) { taken with wakeCount := 1 }) ∧
      (∀ t, ¬ early → exec (.evStep (eventCode e) now) taken = .next t →
        exec (.loopTick now) s = exec (.loopTick now) { t with wakeCount := 1, result := s.result }) ∧
      (∀ f, ¬ early → exec (.evStep (eventCode e) now) taken = .fault f → exec (.loopTick now) s = .fault f)) ∧
    (s.fsmState = .uninitialized → (∀ e ∈ s.eventQueue, e = .internalInterrupt) → exec (.loopTick now) s = .next { s with
      eventQueue := [], wakeCount := 0, lastEventTimestamp := if s.eventQueue = [] then s.lastEventTimestamp else now
      result := .none }) ∧
    (s.fsmState = .uninitialized → s.eventQueue = [.initializeLink] → ∀ t : State,
      exec (.evStep 0 now) { s with eventQueue := [], wakeCount := 0, lastEventTimestamp := now } = .next t →
      t.fsmState = .fatalError → exec (.loopTick now) s = .next t)

/-- Rule R216 step 2, R262, R307, at every parameter set: with no signal and no event for longer than the supervisor's time, the queue is
flushed, the time refreshed and, on a running node, one `Error` is processed: `resets` grows by exactly one. That the queue is empty
after the tick rests on `LOOP.TICK` being atomic (rule R68) and is the model's reading (notes/assumptions/16.md). -/
def Obligations.LoopTickSupervisor : Prop :=
  ∀ (p : Params) (now : Tick) (s : State), s.wakeCount = 0 →
    p.supervisorTimeoutMs < (now.toNat + 4294967296 - s.lastEventTimestamp.toNat) % 4294967296 →
    (s.fsmState = .uninitialized ∨ s.fsmState = .fatalError → runAt p (.loopTick now) s = .ok { s with
      eventQueue := [], lastEventTimestamp := now, result := .none }) ∧
    (∀ t, s.fsmState ∈ [.rxMode, .rxData, .txStart, .txData] → runAt p (.loopTick now) s = .ok t →
      t.resets = s.resets + 1 ∧ t.eventQueue = [] ∧ t.lastEventTimestamp = now ∧ t.history = Vector.replicate 4 0xFFFFFFFF#32 ∧
      ∃ rest, t.trace = s.trace ++ .resetAndIdentify :: rest)

/-- Rules R216 steps 3 to 5, R160, R266 (d), once no event is left to take and the supervisor has not expired: nothing on a node that is
not running. On a running one each step sees what the steps before it left: the hop of rule R160 (a connected peer that has timed out
drops back to the synchronisation channel instead; a changed index calls `T.setChannel` and re-enters `RxMode`, which closes the
transaction), then the event `Timeout` of a transaction still open and overdue, then the event `TxStart` when the node is in `RxMode`
and has its turn. -/
def Obligations.LoopTickRunningNode : Prop :=
  ∀ (now : Tick) (s : State),
    (s.wakeCount = 0 ∧
        (now.toNat + 4294967296 - s.lastEventTimestamp.toNat) % 4294967296 ≤ Config.params.supervisorTimeoutMs ∨
      s.eventQueue = [] ∧ 0 < s.wakeCount) →
    (s.fsmState = .uninitialized ∨ s.fsmState = .fatalError →
      exec (.loopTick now) s = .next { s with wakeCount := 0, result := .none }) ∧
    ∀ (role : Role) (period : Period) (oneWay : Bool) (index : Fin 32),
      s.fsmState ∈ [.rxMode, .rxData, .txStart, .txData] → s.channelCount ≠ 0 → s.cfg.role = some role →
      s.cfg.packetPeriodMs = some period → s.cfg.oneWayLink = some oneWay →
      let t := logicalTime role s.clockSkewMs now
      let idx := if role = .peer ∧ s.connState = .disconnected then 0 else t.toNat / period.ms.toNat % s.channelCount.val
      let drop := decide (idx ≠ s.channelIndex.val ∧ role = .peer ∧ s.connState = .connected ∧
        Config.params.connectTimeoutMs ≤ (now.toNat + 4294967296 - s.lastContactTimestamp.toNat) % 4294967296)
      index.val = (if drop then 0 else idx) →
      let idle : State := { s with
        wakeCount := 0, connState := if drop then .disconnected else s.connState, channelIndex := index }
      let hopped : State := if index = s.channelIndex then idle else { idle with
        fsmState := .rxMode, pktLen := 0, pktRd := 0, txnOpen := false
        trace := s.trace ++ [.setChannel (tableEntry s index.val), .armReceiver] }
      let overdue := hopped.txnOpen = true ∧
        3 * period.ms.toNat < (now.toNat + 4294967296 - s.packetStartTimestamp.toNat) % 4294967296
      let timed : State := if overdue then { hopped with
        fsmState := .rxMode, pktLen := 0, pktRd := 0, txnOpen := false, timeouts := s.timeouts + 1
        trace := hopped.trace ++ [.armReceiver] } else hopped
      let turn := timed.fsmState = .rxMode ∧ slotTest oneWay role period t = true
      (¬ turn → exec (.loopTick now) s = .next { timed with result := .none }) ∧
      (turn → exec (.loopTick now) s = exec (.evStep 4 now) timed)

/-! ### The whole machine -/

/-- Rule R290: the fields that have a value after power-on reset; every configuration register is unset, and the operations that read
one whatever the state are refused. -/
def Obligations.ResetValues : Prop :=
  let s := State.reset
  s.fsmState = .uninitialized ∧ s.eventQueue = [] ∧ s.txQueuePrimary = [] ∧ s.txQueueAux = [] ∧ s.wakeCount = 0 ∧
  s.lastEventTimestamp = 0 ∧ s.lastContactTimestamp = 0 ∧ s.packetStartTimestamp = 0 ∧ s.clockSkewMs = 0 ∧
  s.channelCount = 0 ∧ s.channelIndex = 0 ∧ s.history = Vector.replicate 4 0xFFFFFFFF#32 ∧ s.connState = .disconnected ∧
  s.txnOpen = false ∧ s.timeouts = 0 ∧ s.resets = 0 ∧ s.fatal = false ∧ s.ppmTx = Vector.replicate 8 .noInput ∧
  s.ppmRx = Vector.replicate 8 .timeout ∧ s.streamToggle = false ∧ s.pktLen = 0 ∧ s.pktRd = 0 ∧ s.cfg = ConfigRegs.unset ∧
  (∀ now, exec (.clkTime now) s = .fault .configUnset ∧ exec (.slotTurn now) s = .fault .configUnset) ∧
  ∀ i ∈ [Instr.chGen, .clkSync, .frameBuild, .frameParse 0], exec i s = .fault .configUnset

/-- Rules R95, R271: every operation either answers or is refused for one of the named reasons, each only in the states named; an operand
outside its range is refused whatever the state. Two refusals among them are the model's choice, since the operations' own rules R118
and R135 say 'Faults: none': `CSUM` and `BUF.PUSH` of more than 255 bytes are refused `BadOperand` (notes/assumptions/12.md), and
`BUF.PUSH` with `maxPacketLen` unset is refused `ConfigUnset` (notes/assumptions/11.md). -/
def Obligations.RefusalReasons : Prop :=
  ∀ (i : Instr) (s : State),
    (i.wf Config.params = false → exec i s = .fault .badOperand) ∧
    (∀ f, exec i s = .fault f →
      f = .badOperand ∧ i.wf Config.params = false ∨ f = .configUnset ∧ ¬ Configured s.cfg ∨
        f = .noChannels ∧ s.channelCount = 0 ∨ f = .configInvalid ∧ ¬ LayoutFits Config.params s.cfg) ∧
    ∀ r, exec i s ≠ .refused r

/-- Rules R22, R24 to R47, R71, R74: which operations may write which field of the state; the result ports, which every operation writes,
are no field of the spec's. That `STATS.GET` may write `connState` follows rule R242 against rule R69 and is the model's choice
(notes/assumptions/14.md). -/
def Obligations.WritersOfState : Prop :=
  ∀ (i : Instr) (s t : State), exec i s = .next t →
    let sequencer := (∃ event now, i = .evStep event now) ∨ ∃ now, i = .loopTick now
    let configuring := ∃ field value, i = .cfgSet field value
    t.requests = s.requests ∧
    (t.cfg ≠ s.cfg → configuring) ∧
    (t.channelTable ≠ s.channelTable ∨ t.channelCount ≠ s.channelCount → configuring ∨ i = .chGen) ∧
    (t.channelIndex ≠ s.channelIndex → configuring ∨ i = .chGen ∨ (∃ now, i = .hopEval now) ∨ ∃ now, i = .loopTick now) ∧
    (t.fsmState ≠ s.fsmState ∨ t.fatal ≠ s.fatal ∨ t.timeouts ≠ s.timeouts ∨ t.resets ≠ s.resets ∨ t.trace ≠ s.trace →
      sequencer) ∧
    (t.eventQueue ≠ s.eventQueue ∨ t.wakeCount ≠ s.wakeCount →
      configuring ∨ (∃ event, i = .evPost event) ∨ ∃ now, i = .loopTick now) ∧
    (t.lastEventTimestamp ≠ s.lastEventTimestamp → ∃ now, i = .loopTick now) ∧
    (t.clockSkewMs ≠ s.clockSkewMs → sequencer ∨ i = .clkSync) ∧
    (t.history ≠ s.history → sequencer ∨ i = .init ∨ ∃ outcome, i = .stPush outcome) ∧
    (t.connState ≠ s.connState → sequencer ∨ (∃ now, i = .stContact now) ∨ (∃ now, i = .stTochk now) ∨
      (∃ now rssi, i = .statsGet now rssi) ∨ ∃ now, i = .hopEval now) ∧
    (t.lastContactTimestamp ≠ s.lastContactTimestamp → sequencer ∨ ∃ now, i = .stContact now) ∧
    (t.packetStartTimestamp ≠ s.packetStartTimestamp ∨ t.txnOpen ≠ s.txnOpen →
      sequencer ∨ i = .init ∨ (∃ now, i = .txnOpen now) ∨ i = .txnClose) ∧
    (t.ppmTx ≠ s.ppmTx → ∃ ch sample, i = .ppmSet ch sample) ∧
    (t.ppmRx ≠ s.ppmRx → sequencer ∨ (∃ bytes withCsum, i = .ppmUnpack bytes withCsum) ∨ ∃ len, i = .frameParse len) ∧
    (t.streamToggle ≠ s.streamToggle ∨ t.txDest ≠ s.txDest → sequencer ∨ i = .frameBuild) ∧
    (t.txQueuePrimary ≠ s.txQueuePrimary ∨ t.txQueueAux ≠ s.txQueueAux →
      sequencer ∨ i = .frameBuild ∨ ∃ streamId data, i = .streamTx streamId data) ∧
    (t.pktBuf ≠ s.pktBuf → sequencer ∨ i = .frameBuild ∨ ∃ data, i = .bufPush data) ∧
    (t.pktLen ≠ s.pktLen → sequencer ∨ i = .init ∨ i = .bufReset ∨ i = .frameBuild ∨ ∃ data, i = .bufPush data) ∧
    (t.pktRd ≠ s.pktRd → sequencer ∨ i = .init ∨ i = .bufReset ∨ i = .frameBuild ∨ ∃ n, i = .bufPop n) ∧
    (t.answers ≠ s.answers ∨ t.freeCount ≠ s.freeCount → sequencer) ∧
    ∃ more, t.trace = s.trace ++ more

/-- The node's invariant (`Inv`, rules R25, R28, R33, R35, R42, R43, R74, R215) holds after power-on reset, at every parameter set. -/
def Obligations.ResetMeetsInvariants : Prop := ∀ p : Params, Inv p State.reset

/-- Rules R42, R66, R135: every step keeps the buffer's canonical form and `pktRd <= pktLen`. -/
def Obligations.StepKeepsBuffer : Prop := ∀ s t : State, BufferInv s → step s = .next t → BufferInv t

/-- Rules R33, R35, R74: every step keeps the channel table well-formed and equal to the table the configuration gives. -/
def Obligations.StepKeepsTable : Prop :=
  ∀ s t : State, TableInv s → TableMatches Config.params s → step s = .next t → TableInv t ∧ TableMatches Config.params t

/-- Rules R25, R28, R43: every step keeps the configuration registers at legal values and the queues within their capacities, with one
wake signal for each queued event. -/
def Obligations.StepKeepsConfigAndQueues : Prop :=
  ∀ s t : State, ConfigInv Config.params s → QueueInv Config.params s → step s = .next t →
    ConfigInv Config.params t ∧ QueueInv Config.params t

/-- Rules R27, R215, R227: every step leaves the sequencer in a state it may rest in, with `fatal` set exactly in `FatalError`. -/
def Obligations.StepKeepsSequencerAtRest : Prop := ∀ s t : State, SequencerInv s → step s = .next t → SequencerInv t

/-- Rules R250, R271, R272, R292: on a configured node with a channel table and a layout that fits, at every parameter set, every
operation with legal operands answers, in every sequencer state and with every answer of the transport, and the node stays so unless
the operation changes the configuration or makes a new table. -/
def Obligations.OperationalNodeAnswers : Prop :=
  ∀ (p : Params) (i : Instr) (s : State), Operational p s → i.wf p = true → ∃ t : State, runAt p i s = .ok t ∧
    ((∀ field value, i ≠ .cfgSet field value) → i ≠ .chGen → Operational p t)
end

