-- ==== Sys2Proof/Laws/Memory.lean ====
section
/-! SUPPORT. The packet buffer's bytes: read after write, and that every write keeps the canonical form. -/

namespace Sys2Proof.Machine

@[simp] theorem memory_read_nil (a : Nat) : Memory.read [] a = unwrittenByte := rfl

theorem memory_read_cons (x : Nat) (v : Byte) (m : Memory) (a : Nat) :
    Memory.read ((x, v) :: m) a = if x = a then v else Memory.read m a := rfl

theorem wfFrom_cons {lo a : Nat} {v : Byte} {m : Memory} :
    Memory.wfFrom lo ((a, v) :: m) = true ↔
      lo ≤ a ∧ a < pktCells ∧ v ≠ unwrittenByte ∧ Memory.wfFrom (a + 1) m = true := by
  simp [Memory.wfFrom, and_assoc]

theorem wfFrom_mono {lo lo' : Nat} {m : Memory} (h : lo' ≤ lo) (hm : Memory.wfFrom lo m = true) :
    Memory.wfFrom lo' m = true := by
  cases m with
  | nil => rfl
  | cons c m => obtain ⟨a, v⟩ := c; rw [wfFrom_cons] at hm ⊢; exact ⟨by omega, hm.2⟩

/-- Below the first offset of a canonical form every cell is unwritten. -/
theorem read_below {lo : Nat} {m : Memory} (hm : Memory.wfFrom lo m = true) {a : Nat} (h : a < lo) :
    Memory.read m a = unwrittenByte := by
  induction m generalizing lo with
  | nil => rfl
  | cons c m ih =>
    obtain ⟨x, v⟩ := c
    rw [wfFrom_cons] at hm
    rw [memory_read_cons, if_neg (by omega)]
    exact ih hm.2.2.2 (by omega)

/-- Read after write on a canonical form: the written cell gives the byte, every other cell what it gave. -/
theorem read_write {lo : Nat} {m : Memory} (hm : Memory.wfFrom lo m = true) (a b : Nat) (v : Byte) :
    Memory.read (Memory.write m a v) b = if b = a then v else Memory.read m b := by
  induction m generalizing lo with
  | nil =>
    simp only [Memory.write]
    by_cases hv : v = unwrittenByte
    · rw [if_pos hv, hv, memory_read_nil, ite_self]
    · rw [if_neg hv, memory_read_cons]
      by_cases hb : b = a
      · rw [if_pos hb, if_pos hb.symm]
      · rw [if_neg hb, if_neg (Ne.symm hb)]
  | cons c m ih =>
    obtain ⟨x, w⟩ := c
    rw [wfFrom_cons] at hm
    have below := fun {y : Nat} => read_below (a := y) hm.2.2.2
    have rest := ih hm.2.2.2
    simp only [Memory.write]
    by_cases hb : b = a
    · rw [if_pos hb] at rest ⊢
      split_ifs with h1 h2 h3 h4
      · rw [memory_read_cons, if_neg (by omega), h2]; exact below (by omega)
      · rw [memory_read_cons, if_pos hb.symm]
      · rw [h4]; exact below (by omega)
      · rw [memory_read_cons, if_pos hb.symm]
      · rw [memory_read_cons, if_neg (by omega), rest]
    · rw [if_neg hb] at rest ⊢
      split_ifs with h1 h2 h3 h4
      · rfl
      · rw [memory_read_cons, if_neg (Ne.symm hb)]
      · rw [memory_read_cons, if_neg (by omega)]
      · rw [memory_read_cons, memory_read_cons, if_neg (Ne.symm hb), if_neg (by omega)]
      · rw [memory_read_cons, memory_read_cons, rest]

theorem wfFrom_write {lo : Nat} {m : Memory} (hm : Memory.wfFrom lo m = true) {a : Nat} (hlo : lo ≤ a)
    (ha : a < pktCells) (v : Byte) : Memory.wfFrom lo (Memory.write m a v) = true := by
  induction m generalizing lo with
  | nil =>
    simp only [Memory.write]
    split_ifs with h
    · rfl
    · exact wfFrom_cons.2 ⟨hlo, ha, h, rfl⟩
  | cons c m ih =>
    obtain ⟨x, w⟩ := c
    have hx := wfFrom_cons.1 hm
    simp only [Memory.write]
    split_ifs with h1 h2 h3 h4
    · exact hm
    · exact wfFrom_cons.2 ⟨hlo, ha, h2, wfFrom_cons.2 ⟨by omega, hx.2⟩⟩
    · exact wfFrom_mono (by omega) hx.2.2.2
    · exact wfFrom_cons.2 ⟨hlo, ha, h4, h3 ▸ hx.2.2.2⟩
    · exact wfFrom_cons.2 ⟨hx.1, hx.2.1, hx.2.2.1, ih hx.2.2.2 (by omega)⟩

theorem wf_write {m : Memory} (hm : Memory.wf m = true) {a : Nat} (ha : a < pktCells) (v : Byte) :
    Memory.wf (Memory.write m a v) = true := wfFrom_write hm (Nat.zero_le a) ha v

/-- A run of bytes inside the buffer keeps the canonical form. -/
theorem wf_writeRange {m : Memory} (hm : Memory.wf m = true) (vs : List Byte) {a : Nat} (h : a + vs.length ≤ pktCells) :
    Memory.wf (Memory.writeRange m a vs) = true := by
  induction vs generalizing m a with
  | nil => exact hm
  | cons v vs ih =>
    rw [List.length_cons] at h
    exact ih (wf_write hm (by omega) v) (by omega)

/-- Read after writing a run: inside the run its bytes, outside what was there. -/
theorem read_writeRange {m : Memory} (hm : Memory.wf m = true) (vs : List Byte) {a : Nat} (h : a + vs.length ≤ pktCells)
    (b : Nat) :
    Memory.read (Memory.writeRange m a vs) b =
      if a ≤ b ∧ b < a + vs.length then vs.getD (b - a) 0 else Memory.read m b := by
  induction vs generalizing m a with
  | nil => rw [if_neg (by simp)]; rfl
  | cons v vs ih =>
    rw [List.length_cons] at h ⊢
    rw [Memory.writeRange, ih (wf_write hm (by omega) v) (by omega), read_write hm]
    by_cases hb : b = a
    · subst hb; rw [if_neg (by omega), if_pos rfl, if_pos (by omega), Nat.sub_self]; rfl
    · rw [if_neg hb]
      by_cases hin : a + 1 ≤ b ∧ b < a + 1 + vs.length
      · rw [if_pos hin, if_pos (by omega), show b - a = (b - (a + 1)) + 1 by omega]; rfl
      · rw [if_neg hin, if_neg (by omega)]

@[simp] theorem readRange_length (m : Memory) (a n : Nat) : (Memory.readRange m a n).length = n := by
  simp [Memory.readRange]

theorem readRange_getD (m : Memory) (a n i : Nat) (h : i < n) (d : Byte) :
    (Memory.readRange m a n).getD i d = Memory.read m (a + i) := by
  simp [Memory.readRange, h]

/-- A run reads back as it was written. -/
theorem readRange_writeRange {m : Memory} (hm : Memory.wf m = true) (vs : List Byte) {a : Nat}
    (h : a + vs.length ≤ pktCells) : Memory.readRange (Memory.writeRange m a vs) a vs.length = vs := by
  apply List.ext_getElem (by simp)
  intro i h1 h2
  simp only [Memory.readRange, List.getElem_map, List.getElem_range]
  rw [read_writeRange hm vs h, if_pos (by omega), Nat.add_sub_cancel_left]
  simp [h2]

/-- A run below the written one reads as before. -/
theorem readRange_writeRange_below {m : Memory} (hm : Memory.wf m = true) (vs : List Byte) {a b n : Nat}
    (h : a + vs.length ≤ pktCells) (hb : b + n ≤ a) :
    Memory.readRange (Memory.writeRange m a vs) b n = Memory.readRange m b n := by
  apply List.ext_getElem (by simp)
  intro i h1 h2
  simp only [Memory.readRange, List.getElem_map, List.getElem_range]
  simp only [readRange_length] at h1
  rw [read_writeRange hm vs h, if_neg (by omega)]

theorem readRange_append (m : Memory) (a n k : Nat) :
    Memory.readRange m a (n + k) = Memory.readRange m a n ++ Memory.readRange m (a + n) k := by
  simp [Memory.readRange, List.range_add, Nat.add_assoc]

end Sys2Proof.Machine
end

