-- ==== Sys2Proof/Laws/State.lean ====
section
/-! SUPPORT. What each named update of the state leaves in each field: one lemma a field, so that no later proof unfolds an update. -/

namespace Sys2Proof.Machine

@[simp] theorem withResult_fsmState (s : State) (r : Result) : (s.withResult r).fsmState = s.fsmState := rfl
@[simp] theorem withResult_eventQueue (s : State) (r : Result) : (s.withResult r).eventQueue = s.eventQueue := rfl
@[simp] theorem withResult_wakeCount (s : State) (r : Result) : (s.withResult r).wakeCount = s.wakeCount := rfl
@[simp] theorem withResult_lastEventTimestamp (s : State) (r : Result) : (s.withResult r).lastEventTimestamp = s.lastEventTimestamp := rfl
@[simp] theorem withResult_fatal (s : State) (r : Result) : (s.withResult r).fatal = s.fatal := rfl
@[simp] theorem withResult_cfg (s : State) (r : Result) : (s.withResult r).cfg = s.cfg := rfl
@[simp] theorem withResult_channelTable (s : State) (r : Result) : (s.withResult r).channelTable = s.channelTable := rfl
@[simp] theorem withResult_channelCount (s : State) (r : Result) : (s.withResult r).channelCount = s.channelCount := rfl
@[simp] theorem withResult_channelIndex (s : State) (r : Result) : (s.withResult r).channelIndex = s.channelIndex := rfl
@[simp] theorem withResult_clockSkewMs (s : State) (r : Result) : (s.withResult r).clockSkewMs = s.clockSkewMs := rfl
@[simp] theorem withResult_history (s : State) (r : Result) : (s.withResult r).history = s.history := rfl
@[simp] theorem withResult_connState (s : State) (r : Result) : (s.withResult r).connState = s.connState := rfl
@[simp] theorem withResult_lastContactTimestamp (s : State) (r : Result) : (s.withResult r).lastContactTimestamp = s.lastContactTimestamp := rfl
@[simp] theorem withResult_packetStartTimestamp (s : State) (r : Result) : (s.withResult r).packetStartTimestamp = s.packetStartTimestamp := rfl
@[simp] theorem withResult_txnOpen (s : State) (r : Result) : (s.withResult r).txnOpen = s.txnOpen := rfl
@[simp] theorem withResult_timeouts (s : State) (r : Result) : (s.withResult r).timeouts = s.timeouts := rfl
@[simp] theorem withResult_resets (s : State) (r : Result) : (s.withResult r).resets = s.resets := rfl
@[simp] theorem withResult_ppmTx (s : State) (r : Result) : (s.withResult r).ppmTx = s.ppmTx := rfl
@[simp] theorem withResult_ppmRx (s : State) (r : Result) : (s.withResult r).ppmRx = s.ppmRx := rfl
@[simp] theorem withResult_streamToggle (s : State) (r : Result) : (s.withResult r).streamToggle = s.streamToggle := rfl
@[simp] theorem withResult_pktBuf (s : State) (r : Result) : (s.withResult r).pktBuf = s.pktBuf := rfl
@[simp] theorem withResult_pktLen (s : State) (r : Result) : (s.withResult r).pktLen = s.pktLen := rfl
@[simp] theorem withResult_pktRd (s : State) (r : Result) : (s.withResult r).pktRd = s.pktRd := rfl
@[simp] theorem withResult_txDest (s : State) (r : Result) : (s.withResult r).txDest = s.txDest := rfl
@[simp] theorem withResult_txQueuePrimary (s : State) (r : Result) : (s.withResult r).txQueuePrimary = s.txQueuePrimary := rfl
@[simp] theorem withResult_txQueueAux (s : State) (r : Result) : (s.withResult r).txQueueAux = s.txQueueAux := rfl
@[simp] theorem withResult_requests (s : State) (r : Result) : (s.withResult r).requests = s.requests := rfl
@[simp] theorem withResult_answers (s : State) (r : Result) : (s.withResult r).answers = s.answers := rfl
@[simp] theorem withResult_freeCount (s : State) (r : Result) : (s.withResult r).freeCount = s.freeCount := rfl
@[simp] theorem withResult_result (s : State) (r : Result) : (s.withResult r).result = r := rfl
@[simp] theorem withResult_trace (s : State) (r : Result) : (s.withResult r).trace = s.trace := rfl

@[simp] theorem bufReset_fsmState (s : State) : (bufReset s).fsmState = s.fsmState := rfl
@[simp] theorem bufReset_eventQueue (s : State) : (bufReset s).eventQueue = s.eventQueue := rfl
@[simp] theorem bufReset_wakeCount (s : State) : (bufReset s).wakeCount = s.wakeCount := rfl
@[simp] theorem bufReset_lastEventTimestamp (s : State) : (bufReset s).lastEventTimestamp = s.lastEventTimestamp := rfl
@[simp] theorem bufReset_fatal (s : State) : (bufReset s).fatal = s.fatal := rfl
@[simp] theorem bufReset_cfg (s : State) : (bufReset s).cfg = s.cfg := rfl
@[simp] theorem bufReset_channelTable (s : State) : (bufReset s).channelTable = s.channelTable := rfl
@[simp] theorem bufReset_channelCount (s : State) : (bufReset s).channelCount = s.channelCount := rfl
@[simp] theorem bufReset_channelIndex (s : State) : (bufReset s).channelIndex = s.channelIndex := rfl
@[simp] theorem bufReset_clockSkewMs (s : State) : (bufReset s).clockSkewMs = s.clockSkewMs := rfl
@[simp] theorem bufReset_history (s : State) : (bufReset s).history = s.history := rfl
@[simp] theorem bufReset_connState (s : State) : (bufReset s).connState = s.connState := rfl
@[simp] theorem bufReset_lastContactTimestamp (s : State) : (bufReset s).lastContactTimestamp = s.lastContactTimestamp := rfl
@[simp] theorem bufReset_packetStartTimestamp (s : State) : (bufReset s).packetStartTimestamp = s.packetStartTimestamp := rfl
@[simp] theorem bufReset_txnOpen (s : State) : (bufReset s).txnOpen = s.txnOpen := rfl
@[simp] theorem bufReset_timeouts (s : State) : (bufReset s).timeouts = s.timeouts := rfl
@[simp] theorem bufReset_resets (s : State) : (bufReset s).resets = s.resets := rfl
@[simp] theorem bufReset_ppmTx (s : State) : (bufReset s).ppmTx = s.ppmTx := rfl
@[simp] theorem bufReset_ppmRx (s : State) : (bufReset s).ppmRx = s.ppmRx := rfl
@[simp] theorem bufReset_streamToggle (s : State) : (bufReset s).streamToggle = s.streamToggle := rfl
@[simp] theorem bufReset_pktBuf (s : State) : (bufReset s).pktBuf = s.pktBuf := rfl
@[simp] theorem bufReset_pktLen (s : State) : (bufReset s).pktLen = 0 := rfl
@[simp] theorem bufReset_pktRd (s : State) : (bufReset s).pktRd = 0 := rfl
@[simp] theorem bufReset_txDest (s : State) : (bufReset s).txDest = s.txDest := rfl
@[simp] theorem bufReset_txQueuePrimary (s : State) : (bufReset s).txQueuePrimary = s.txQueuePrimary := rfl
@[simp] theorem bufReset_txQueueAux (s : State) : (bufReset s).txQueueAux = s.txQueueAux := rfl
@[simp] theorem bufReset_requests (s : State) : (bufReset s).requests = s.requests := rfl
@[simp] theorem bufReset_answers (s : State) : (bufReset s).answers = s.answers := rfl
@[simp] theorem bufReset_freeCount (s : State) : (bufReset s).freeCount = s.freeCount := rfl
@[simp] theorem bufReset_result (s : State) : (bufReset s).result = s.result := rfl
@[simp] theorem bufReset_trace (s : State) : (bufReset s).trace = s.trace := rfl

@[simp] theorem loadFrame_fsmState (s : State) (b : List Byte) (d : Word32) : (loadFrame b d s).fsmState = s.fsmState := rfl
@[simp] theorem loadFrame_eventQueue (s : State) (b : List Byte) (d : Word32) : (loadFrame b d s).eventQueue = s.eventQueue := rfl
@[simp] theorem loadFrame_wakeCount (s : State) (b : List Byte) (d : Word32) : (loadFrame b d s).wakeCount = s.wakeCount := rfl
@[simp] theorem loadFrame_lastEventTimestamp (s : State) (b : List Byte) (d : Word32) : (loadFrame b d s).lastEventTimestamp = s.lastEventTimestamp := rfl
@[simp] theorem loadFrame_fatal (s : State) (b : List Byte) (d : Word32) : (loadFrame b d s).fatal = s.fatal := rfl
@[simp] theorem loadFrame_cfg (s : State) (b : List Byte) (d : Word32) : (loadFrame b d s).cfg = s.cfg := rfl
@[simp] theorem loadFrame_channelTable (s : State) (b : List Byte) (d : Word32) : (loadFrame b d s).channelTable = s.channelTable := rfl
@[simp] theorem loadFrame_channelCount (s : State) (b : List Byte) (d : Word32) : (loadFrame b d s).channelCount = s.channelCount := rfl
@[simp] theorem loadFrame_channelIndex (s : State) (b : List Byte) (d : Word32) : (loadFrame b d s).channelIndex = s.channelIndex := rfl
@[simp] theorem loadFrame_clockSkewMs (s : State) (b : List Byte) (d : Word32) : (loadFrame b d s).clockSkewMs = s.clockSkewMs := rfl
@[simp] theorem loadFrame_history (s : State) (b : List Byte) (d : Word32) : (loadFrame b d s).history = s.history := rfl
@[simp] theorem loadFrame_connState (s : State) (b : List Byte) (d : Word32) : (loadFrame b d s).connState = s.connState := rfl
@[simp] theorem loadFrame_lastContactTimestamp (s : State) (b : List Byte) (d : Word32) : (loadFrame b d s).lastContactTimestamp = s.lastContactTimestamp := rfl
@[simp] theorem loadFrame_packetStartTimestamp (s : State) (b : List Byte) (d : Word32) : (loadFrame b d s).packetStartTimestamp = s.packetStartTimestamp := rfl
@[simp] theorem loadFrame_txnOpen (s : State) (b : List Byte) (d : Word32) : (loadFrame b d s).txnOpen = s.txnOpen := rfl
@[simp] theorem loadFrame_timeouts (s : State) (b : List Byte) (d : Word32) : (loadFrame b d s).timeouts = s.timeouts := rfl
@[simp] theorem loadFrame_resets (s : State) (b : List Byte) (d : Word32) : (loadFrame b d s).resets = s.resets := rfl
@[simp] theorem loadFrame_ppmTx (s : State) (b : List Byte) (d : Word32) : (loadFrame b d s).ppmTx = s.ppmTx := rfl
@[simp] theorem loadFrame_ppmRx (s : State) (b : List Byte) (d : Word32) : (loadFrame b d s).ppmRx = s.ppmRx := rfl
@[simp] theorem loadFrame_streamToggle (s : State) (b : List Byte) (d : Word32) : (loadFrame b d s).streamToggle = s.streamToggle := rfl
@[simp] theorem loadFrame_pktBuf (s : State) (b : List Byte) (d : Word32) : (loadFrame b d s).pktBuf = Memory.writeRange s.pktBuf 0 b := rfl
@[simp] theorem loadFrame_pktLen (s : State) (b : List Byte) (d : Word32) : (loadFrame b d s).pktLen = BitVec.ofNat 8 b.length := rfl
@[simp] theorem loadFrame_pktRd (s : State) (b : List Byte) (d : Word32) : (loadFrame b d s).pktRd = 0 := rfl
@[simp] theorem loadFrame_txDest (s : State) (b : List Byte) (d : Word32) : (loadFrame b d s).txDest = d := rfl
@[simp] theorem loadFrame_txQueuePrimary (s : State) (b : List Byte) (d : Word32) : (loadFrame b d s).txQueuePrimary = s.txQueuePrimary := rfl
@[simp] theorem loadFrame_txQueueAux (s : State) (b : List Byte) (d : Word32) : (loadFrame b d s).txQueueAux = s.txQueueAux := rfl
@[simp] theorem loadFrame_requests (s : State) (b : List Byte) (d : Word32) : (loadFrame b d s).requests = s.requests := rfl
@[simp] theorem loadFrame_answers (s : State) (b : List Byte) (d : Word32) : (loadFrame b d s).answers = s.answers := rfl
@[simp] theorem loadFrame_freeCount (s : State) (b : List Byte) (d : Word32) : (loadFrame b d s).freeCount = s.freeCount := rfl
@[simp] theorem loadFrame_result (s : State) (b : List Byte) (d : Word32) : (loadFrame b d s).result = s.result := rfl
@[simp] theorem loadFrame_trace (s : State) (b : List Byte) (d : Word32) : (loadFrame b d s).trace = s.trace := rfl

@[simp] theorem txnOpen_fsmState (s : State) (now : Tick) : (txnOpen now s).fsmState = s.fsmState := rfl
@[simp] theorem txnOpen_eventQueue (s : State) (now : Tick) : (txnOpen now s).eventQueue = s.eventQueue := rfl
@[simp] theorem txnOpen_wakeCount (s : State) (now : Tick) : (txnOpen now s).wakeCount = s.wakeCount := rfl
@[simp] theorem txnOpen_lastEventTimestamp (s : State) (now : Tick) : (txnOpen now s).lastEventTimestamp = s.lastEventTimestamp := rfl
@[simp] theorem txnOpen_fatal (s : State) (now : Tick) : (txnOpen now s).fatal = s.fatal := rfl
@[simp] theorem txnOpen_cfg (s : State) (now : Tick) : (txnOpen now s).cfg = s.cfg := rfl
@[simp] theorem txnOpen_channelTable (s : State) (now : Tick) : (txnOpen now s).channelTable = s.channelTable := rfl
@[simp] theorem txnOpen_channelCount (s : State) (now : Tick) : (txnOpen now s).channelCount = s.channelCount := rfl
@[simp] theorem txnOpen_channelIndex (s : State) (now : Tick) : (txnOpen now s).channelIndex = s.channelIndex := rfl
@[simp] theorem txnOpen_clockSkewMs (s : State) (now : Tick) : (txnOpen now s).clockSkewMs = s.clockSkewMs := rfl
@[simp] theorem txnOpen_history (s : State) (now : Tick) : (txnOpen now s).history = s.history := rfl
@[simp] theorem txnOpen_connState (s : State) (now : Tick) : (txnOpen now s).connState = s.connState := rfl
@[simp] theorem txnOpen_lastContactTimestamp (s : State) (now : Tick) : (txnOpen now s).lastContactTimestamp = s.lastContactTimestamp := rfl
@[simp] theorem txnOpen_packetStartTimestamp (s : State) (now : Tick) : (txnOpen now s).packetStartTimestamp = now := rfl
@[simp] theorem txnOpen_txnOpen (s : State) (now : Tick) : (txnOpen now s).txnOpen = true := rfl
@[simp] theorem txnOpen_timeouts (s : State) (now : Tick) : (txnOpen now s).timeouts = s.timeouts := rfl
@[simp] theorem txnOpen_resets (s : State) (now : Tick) : (txnOpen now s).resets = s.resets := rfl
@[simp] theorem txnOpen_ppmTx (s : State) (now : Tick) : (txnOpen now s).ppmTx = s.ppmTx := rfl
@[simp] theorem txnOpen_ppmRx (s : State) (now : Tick) : (txnOpen now s).ppmRx = s.ppmRx := rfl
@[simp] theorem txnOpen_streamToggle (s : State) (now : Tick) : (txnOpen now s).streamToggle = s.streamToggle := rfl
@[simp] theorem txnOpen_pktBuf (s : State) (now : Tick) : (txnOpen now s).pktBuf = s.pktBuf := rfl
@[simp] theorem txnOpen_pktLen (s : State) (now : Tick) : (txnOpen now s).pktLen = s.pktLen := rfl
@[simp] theorem txnOpen_pktRd (s : State) (now : Tick) : (txnOpen now s).pktRd = s.pktRd := rfl
@[simp] theorem txnOpen_txDest (s : State) (now : Tick) : (txnOpen now s).txDest = s.txDest := rfl
@[simp] theorem txnOpen_txQueuePrimary (s : State) (now : Tick) : (txnOpen now s).txQueuePrimary = s.txQueuePrimary := rfl
@[simp] theorem txnOpen_txQueueAux (s : State) (now : Tick) : (txnOpen now s).txQueueAux = s.txQueueAux := rfl
@[simp] theorem txnOpen_requests (s : State) (now : Tick) : (txnOpen now s).requests = s.requests := rfl
@[simp] theorem txnOpen_answers (s : State) (now : Tick) : (txnOpen now s).answers = s.answers := rfl
@[simp] theorem txnOpen_freeCount (s : State) (now : Tick) : (txnOpen now s).freeCount = s.freeCount := rfl
@[simp] theorem txnOpen_result (s : State) (now : Tick) : (txnOpen now s).result = s.result := rfl
@[simp] theorem txnOpen_trace (s : State) (now : Tick) : (txnOpen now s).trace = s.trace := rfl

@[simp] theorem txnClose_fsmState (s : State) : (txnClose s).fsmState = s.fsmState := rfl
@[simp] theorem txnClose_eventQueue (s : State) : (txnClose s).eventQueue = s.eventQueue := rfl
@[simp] theorem txnClose_wakeCount (s : State) : (txnClose s).wakeCount = s.wakeCount := rfl
@[simp] theorem txnClose_lastEventTimestamp (s : State) : (txnClose s).lastEventTimestamp = s.lastEventTimestamp := rfl
@[simp] theorem txnClose_fatal (s : State) : (txnClose s).fatal = s.fatal := rfl
@[simp] theorem txnClose_cfg (s : State) : (txnClose s).cfg = s.cfg := rfl
@[simp] theorem txnClose_channelTable (s : State) : (txnClose s).channelTable = s.channelTable := rfl
@[simp] theorem txnClose_channelCount (s : State) : (txnClose s).channelCount = s.channelCount := rfl
@[simp] theorem txnClose_channelIndex (s : State) : (txnClose s).channelIndex = s.channelIndex := rfl
@[simp] theorem txnClose_clockSkewMs (s : State) : (txnClose s).clockSkewMs = s.clockSkewMs := rfl
@[simp] theorem txnClose_history (s : State) : (txnClose s).history = s.history := rfl
@[simp] theorem txnClose_connState (s : State) : (txnClose s).connState = s.connState := rfl
@[simp] theorem txnClose_lastContactTimestamp (s : State) : (txnClose s).lastContactTimestamp = s.lastContactTimestamp := rfl
@[simp] theorem txnClose_packetStartTimestamp (s : State) : (txnClose s).packetStartTimestamp = s.packetStartTimestamp := rfl
@[simp] theorem txnClose_txnOpen (s : State) : (txnClose s).txnOpen = false := rfl
@[simp] theorem txnClose_timeouts (s : State) : (txnClose s).timeouts = s.timeouts := rfl
@[simp] theorem txnClose_resets (s : State) : (txnClose s).resets = s.resets := rfl
@[simp] theorem txnClose_ppmTx (s : State) : (txnClose s).ppmTx = s.ppmTx := rfl
@[simp] theorem txnClose_ppmRx (s : State) : (txnClose s).ppmRx = s.ppmRx := rfl
@[simp] theorem txnClose_streamToggle (s : State) : (txnClose s).streamToggle = s.streamToggle := rfl
@[simp] theorem txnClose_pktBuf (s : State) : (txnClose s).pktBuf = s.pktBuf := rfl
@[simp] theorem txnClose_pktLen (s : State) : (txnClose s).pktLen = s.pktLen := rfl
@[simp] theorem txnClose_pktRd (s : State) : (txnClose s).pktRd = s.pktRd := rfl
@[simp] theorem txnClose_txDest (s : State) : (txnClose s).txDest = s.txDest := rfl
@[simp] theorem txnClose_txQueuePrimary (s : State) : (txnClose s).txQueuePrimary = s.txQueuePrimary := rfl
@[simp] theorem txnClose_txQueueAux (s : State) : (txnClose s).txQueueAux = s.txQueueAux := rfl
@[simp] theorem txnClose_requests (s : State) : (txnClose s).requests = s.requests := rfl
@[simp] theorem txnClose_answers (s : State) : (txnClose s).answers = s.answers := rfl
@[simp] theorem txnClose_freeCount (s : State) : (txnClose s).freeCount = s.freeCount := rfl
@[simp] theorem txnClose_result (s : State) : (txnClose s).result = s.result := rfl
@[simp] theorem txnClose_trace (s : State) : (txnClose s).trace = s.trace := rfl

@[simp] theorem contact_fsmState (s : State) (now : Tick) : (contact now s).fsmState = s.fsmState := rfl
@[simp] theorem contact_eventQueue (s : State) (now : Tick) : (contact now s).eventQueue = s.eventQueue := rfl
@[simp] theorem contact_wakeCount (s : State) (now : Tick) : (contact now s).wakeCount = s.wakeCount := rfl
@[simp] theorem contact_lastEventTimestamp (s : State) (now : Tick) : (contact now s).lastEventTimestamp = s.lastEventTimestamp := rfl
@[simp] theorem contact_fatal (s : State) (now : Tick) : (contact now s).fatal = s.fatal := rfl
@[simp] theorem contact_cfg (s : State) (now : Tick) : (contact now s).cfg = s.cfg := rfl
@[simp] theorem contact_channelTable (s : State) (now : Tick) : (contact now s).channelTable = s.channelTable := rfl
@[simp] theorem contact_channelCount (s : State) (now : Tick) : (contact now s).channelCount = s.channelCount := rfl
@[simp] theorem contact_channelIndex (s : State) (now : Tick) : (contact now s).channelIndex = s.channelIndex := rfl
@[simp] theorem contact_clockSkewMs (s : State) (now : Tick) : (contact now s).clockSkewMs = s.clockSkewMs := rfl
@[simp] theorem contact_history (s : State) (now : Tick) : (contact now s).history = s.history := rfl
@[simp] theorem contact_connState (s : State) (now : Tick) : (contact now s).connState = .connected := rfl
@[simp] theorem contact_lastContactTimestamp (s : State) (now : Tick) : (contact now s).lastContactTimestamp = now := rfl
@[simp] theorem contact_packetStartTimestamp (s : State) (now : Tick) : (contact now s).packetStartTimestamp = s.packetStartTimestamp := rfl
@[simp] theorem contact_txnOpen (s : State) (now : Tick) : (contact now s).txnOpen = s.txnOpen := rfl
@[simp] theorem contact_timeouts (s : State) (now : Tick) : (contact now s).timeouts = s.timeouts := rfl
@[simp] theorem contact_resets (s : State) (now : Tick) : (contact now s).resets = s.resets := rfl
@[simp] theorem contact_ppmTx (s : State) (now : Tick) : (contact now s).ppmTx = s.ppmTx := rfl
@[simp] theorem contact_ppmRx (s : State) (now : Tick) : (contact now s).ppmRx = s.ppmRx := rfl
@[simp] theorem contact_streamToggle (s : State) (now : Tick) : (contact now s).streamToggle = s.streamToggle := rfl
@[simp] theorem contact_pktBuf (s : State) (now : Tick) : (contact now s).pktBuf = s.pktBuf := rfl
@[simp] theorem contact_pktLen (s : State) (now : Tick) : (contact now s).pktLen = s.pktLen := rfl
@[simp] theorem contact_pktRd (s : State) (now : Tick) : (contact now s).pktRd = s.pktRd := rfl
@[simp] theorem contact_txDest (s : State) (now : Tick) : (contact now s).txDest = s.txDest := rfl
@[simp] theorem contact_txQueuePrimary (s : State) (now : Tick) : (contact now s).txQueuePrimary = s.txQueuePrimary := rfl
@[simp] theorem contact_txQueueAux (s : State) (now : Tick) : (contact now s).txQueueAux = s.txQueueAux := rfl
@[simp] theorem contact_requests (s : State) (now : Tick) : (contact now s).requests = s.requests := rfl
@[simp] theorem contact_answers (s : State) (now : Tick) : (contact now s).answers = s.answers := rfl
@[simp] theorem contact_freeCount (s : State) (now : Tick) : (contact now s).freeCount = s.freeCount := rfl
@[simp] theorem contact_result (s : State) (now : Tick) : (contact now s).result = s.result := rfl
@[simp] theorem contact_trace (s : State) (now : Tick) : (contact now s).trace = s.trace := rfl

@[simp] theorem emit_fsmState (s : State) (o : Output) : (emit o s).fsmState = s.fsmState := rfl
@[simp] theorem emit_eventQueue (s : State) (o : Output) : (emit o s).eventQueue = s.eventQueue := rfl
@[simp] theorem emit_wakeCount (s : State) (o : Output) : (emit o s).wakeCount = s.wakeCount := rfl
@[simp] theorem emit_lastEventTimestamp (s : State) (o : Output) : (emit o s).lastEventTimestamp = s.lastEventTimestamp := rfl
@[simp] theorem emit_fatal (s : State) (o : Output) : (emit o s).fatal = s.fatal := rfl
@[simp] theorem emit_cfg (s : State) (o : Output) : (emit o s).cfg = s.cfg := rfl
@[simp] theorem emit_channelTable (s : State) (o : Output) : (emit o s).channelTable = s.channelTable := rfl
@[simp] theorem emit_channelCount (s : State) (o : Output) : (emit o s).channelCount = s.channelCount := rfl
@[simp] theorem emit_channelIndex (s : State) (o : Output) : (emit o s).channelIndex = s.channelIndex := rfl
@[simp] theorem emit_clockSkewMs (s : State) (o : Output) : (emit o s).clockSkewMs = s.clockSkewMs := rfl
@[simp] theorem emit_history (s : State) (o : Output) : (emit o s).history = s.history := rfl
@[simp] theorem emit_connState (s : State) (o : Output) : (emit o s).connState = s.connState := rfl
@[simp] theorem emit_lastContactTimestamp (s : State) (o : Output) : (emit o s).lastContactTimestamp = s.lastContactTimestamp := rfl
@[simp] theorem emit_packetStartTimestamp (s : State) (o : Output) : (emit o s).packetStartTimestamp = s.packetStartTimestamp := rfl
@[simp] theorem emit_txnOpen (s : State) (o : Output) : (emit o s).txnOpen = s.txnOpen := rfl
@[simp] theorem emit_timeouts (s : State) (o : Output) : (emit o s).timeouts = s.timeouts := rfl
@[simp] theorem emit_resets (s : State) (o : Output) : (emit o s).resets = s.resets := rfl
@[simp] theorem emit_ppmTx (s : State) (o : Output) : (emit o s).ppmTx = s.ppmTx := rfl
@[simp] theorem emit_ppmRx (s : State) (o : Output) : (emit o s).ppmRx = s.ppmRx := rfl
@[simp] theorem emit_streamToggle (s : State) (o : Output) : (emit o s).streamToggle = s.streamToggle := rfl
@[simp] theorem emit_pktBuf (s : State) (o : Output) : (emit o s).pktBuf = s.pktBuf := rfl
@[simp] theorem emit_pktLen (s : State) (o : Output) : (emit o s).pktLen = s.pktLen := rfl
@[simp] theorem emit_pktRd (s : State) (o : Output) : (emit o s).pktRd = s.pktRd := rfl
@[simp] theorem emit_txDest (s : State) (o : Output) : (emit o s).txDest = s.txDest := rfl
@[simp] theorem emit_txQueuePrimary (s : State) (o : Output) : (emit o s).txQueuePrimary = s.txQueuePrimary := rfl
@[simp] theorem emit_txQueueAux (s : State) (o : Output) : (emit o s).txQueueAux = s.txQueueAux := rfl
@[simp] theorem emit_requests (s : State) (o : Output) : (emit o s).requests = s.requests := rfl
@[simp] theorem emit_answers (s : State) (o : Output) : (emit o s).answers = s.answers := rfl
@[simp] theorem emit_freeCount (s : State) (o : Output) : (emit o s).freeCount = s.freeCount := rfl
@[simp] theorem emit_result (s : State) (o : Output) : (emit o s).result = s.result := rfl
@[simp] theorem emit_trace (s : State) (o : Output) : (emit o s).trace = s.trace ++ [o] := rfl

@[simp] theorem stPush_fsmState (s : State) (c : OutcomeCode) : (stPush c s).fsmState = s.fsmState := rfl
@[simp] theorem stPush_eventQueue (s : State) (c : OutcomeCode) : (stPush c s).eventQueue = s.eventQueue := rfl
@[simp] theorem stPush_wakeCount (s : State) (c : OutcomeCode) : (stPush c s).wakeCount = s.wakeCount := rfl
@[simp] theorem stPush_lastEventTimestamp (s : State) (c : OutcomeCode) : (stPush c s).lastEventTimestamp = s.lastEventTimestamp := rfl
@[simp] theorem stPush_fatal (s : State) (c : OutcomeCode) : (stPush c s).fatal = s.fatal := rfl
@[simp] theorem stPush_cfg (s : State) (c : OutcomeCode) : (stPush c s).cfg = s.cfg := rfl
@[simp] theorem stPush_channelTable (s : State) (c : OutcomeCode) : (stPush c s).channelTable = s.channelTable := rfl
@[simp] theorem stPush_channelCount (s : State) (c : OutcomeCode) : (stPush c s).channelCount = s.channelCount := rfl
@[simp] theorem stPush_channelIndex (s : State) (c : OutcomeCode) : (stPush c s).channelIndex = s.channelIndex := rfl
@[simp] theorem stPush_clockSkewMs (s : State) (c : OutcomeCode) : (stPush c s).clockSkewMs = s.clockSkewMs := rfl
@[simp] theorem stPush_history (s : State) (c : OutcomeCode) : (stPush c s).history = pushHistory (outcomeBits c) s.history := rfl
@[simp] theorem stPush_connState (s : State) (c : OutcomeCode) : (stPush c s).connState = s.connState := rfl
@[simp] theorem stPush_lastContactTimestamp (s : State) (c : OutcomeCode) : (stPush c s).lastContactTimestamp = s.lastContactTimestamp := rfl
@[simp] theorem stPush_packetStartTimestamp (s : State) (c : OutcomeCode) : (stPush c s).packetStartTimestamp = s.packetStartTimestamp := rfl
@[simp] theorem stPush_txnOpen (s : State) (c : OutcomeCode) : (stPush c s).txnOpen = s.txnOpen := rfl
@[simp] theorem stPush_timeouts (s : State) (c : OutcomeCode) : (stPush c s).timeouts = s.timeouts := rfl
@[simp] theorem stPush_resets (s : State) (c : OutcomeCode) : (stPush c s).resets = s.resets := rfl
@[simp] theorem stPush_ppmTx (s : State) (c : OutcomeCode) : (stPush c s).ppmTx = s.ppmTx := rfl
@[simp] theorem stPush_ppmRx (s : State) (c : OutcomeCode) : (stPush c s).ppmRx = s.ppmRx := rfl
@[simp] theorem stPush_streamToggle (s : State) (c : OutcomeCode) : (stPush c s).streamToggle = s.streamToggle := rfl
@[simp] theorem stPush_pktBuf (s : State) (c : OutcomeCode) : (stPush c s).pktBuf = s.pktBuf := rfl
@[simp] theorem stPush_pktLen (s : State) (c : OutcomeCode) : (stPush c s).pktLen = s.pktLen := rfl
@[simp] theorem stPush_pktRd (s : State) (c : OutcomeCode) : (stPush c s).pktRd = s.pktRd := rfl
@[simp] theorem stPush_txDest (s : State) (c : OutcomeCode) : (stPush c s).txDest = s.txDest := rfl
@[simp] theorem stPush_txQueuePrimary (s : State) (c : OutcomeCode) : (stPush c s).txQueuePrimary = s.txQueuePrimary := rfl
@[simp] theorem stPush_txQueueAux (s : State) (c : OutcomeCode) : (stPush c s).txQueueAux = s.txQueueAux := rfl
@[simp] theorem stPush_requests (s : State) (c : OutcomeCode) : (stPush c s).requests = s.requests := rfl
@[simp] theorem stPush_answers (s : State) (c : OutcomeCode) : (stPush c s).answers = s.answers := rfl
@[simp] theorem stPush_freeCount (s : State) (c : OutcomeCode) : (stPush c s).freeCount = s.freeCount := rfl
@[simp] theorem stPush_result (s : State) (c : OutcomeCode) : (stPush c s).result = s.result := rfl
@[simp] theorem stPush_trace (s : State) (c : OutcomeCode) : (stPush c s).trace = s.trace := rfl

@[simp] theorem initBlock_fsmState (s : State) : (initBlock s).fsmState = s.fsmState := rfl
@[simp] theorem initBlock_eventQueue (s : State) : (initBlock s).eventQueue = s.eventQueue := rfl
@[simp] theorem initBlock_wakeCount (s : State) : (initBlock s).wakeCount = s.wakeCount := rfl
@[simp] theorem initBlock_lastEventTimestamp (s : State) : (initBlock s).lastEventTimestamp = s.lastEventTimestamp := rfl
@[simp] theorem initBlock_fatal (s : State) : (initBlock s).fatal = s.fatal := rfl
@[simp] theorem initBlock_cfg (s : State) : (initBlock s).cfg = s.cfg := rfl
@[simp] theorem initBlock_channelTable (s : State) : (initBlock s).channelTable = s.channelTable := rfl
@[simp] theorem initBlock_channelCount (s : State) : (initBlock s).channelCount = s.channelCount := rfl
@[simp] theorem initBlock_channelIndex (s : State) : (initBlock s).channelIndex = s.channelIndex := rfl
@[simp] theorem initBlock_clockSkewMs (s : State) : (initBlock s).clockSkewMs = s.clockSkewMs := rfl
@[simp] theorem initBlock_history (s : State) : (initBlock s).history = historyReset := rfl
@[simp] theorem initBlock_connState (s : State) : (initBlock s).connState = s.connState := rfl
@[simp] theorem initBlock_lastContactTimestamp (s : State) : (initBlock s).lastContactTimestamp = s.lastContactTimestamp := rfl
@[simp] theorem initBlock_packetStartTimestamp (s : State) : (initBlock s).packetStartTimestamp = 0 := rfl
@[simp] theorem initBlock_txnOpen (s : State) : (initBlock s).txnOpen = false := rfl
@[simp] theorem initBlock_timeouts (s : State) : (initBlock s).timeouts = s.timeouts := rfl
@[simp] theorem initBlock_resets (s : State) : (initBlock s).resets = s.resets := rfl
@[simp] theorem initBlock_ppmTx (s : State) : (initBlock s).ppmTx = s.ppmTx := rfl
@[simp] theorem initBlock_ppmRx (s : State) : (initBlock s).ppmRx = s.ppmRx := rfl
@[simp] theorem initBlock_streamToggle (s : State) : (initBlock s).streamToggle = s.streamToggle := rfl
@[simp] theorem initBlock_pktBuf (s : State) : (initBlock s).pktBuf = s.pktBuf := rfl
@[simp] theorem initBlock_pktLen (s : State) : (initBlock s).pktLen = 0 := rfl
@[simp] theorem initBlock_pktRd (s : State) : (initBlock s).pktRd = 0 := rfl
@[simp] theorem initBlock_txDest (s : State) : (initBlock s).txDest = s.txDest := rfl
@[simp] theorem initBlock_txQueuePrimary (s : State) : (initBlock s).txQueuePrimary = s.txQueuePrimary := rfl
@[simp] theorem initBlock_txQueueAux (s : State) : (initBlock s).txQueueAux = s.txQueueAux := rfl
@[simp] theorem initBlock_requests (s : State) : (initBlock s).requests = s.requests := rfl
@[simp] theorem initBlock_answers (s : State) : (initBlock s).answers = s.answers := rfl
@[simp] theorem initBlock_freeCount (s : State) : (initBlock s).freeCount = s.freeCount := rfl
@[simp] theorem initBlock_result (s : State) : (initBlock s).result = s.result := rfl
@[simp] theorem initBlock_trace (s : State) : (initBlock s).trace = s.trace := rfl

@[simp] theorem setPrimary_fsmState (s : State) (q : List Byte) : (setTxQueue s .primary q).fsmState = s.fsmState := rfl
@[simp] theorem setPrimary_eventQueue (s : State) (q : List Byte) : (setTxQueue s .primary q).eventQueue = s.eventQueue := rfl
@[simp] theorem setPrimary_wakeCount (s : State) (q : List Byte) : (setTxQueue s .primary q).wakeCount = s.wakeCount := rfl
@[simp] theorem setPrimary_lastEventTimestamp (s : State) (q : List Byte) : (setTxQueue s .primary q).lastEventTimestamp = s.lastEventTimestamp := rfl
@[simp] theorem setPrimary_fatal (s : State) (q : List Byte) : (setTxQueue s .primary q).fatal = s.fatal := rfl
@[simp] theorem setPrimary_cfg (s : State) (q : List Byte) : (setTxQueue s .primary q).cfg = s.cfg := rfl
@[simp] theorem setPrimary_channelTable (s : State) (q : List Byte) : (setTxQueue s .primary q).channelTable = s.channelTable := rfl
@[simp] theorem setPrimary_channelCount (s : State) (q : List Byte) : (setTxQueue s .primary q).channelCount = s.channelCount := rfl
@[simp] theorem setPrimary_channelIndex (s : State) (q : List Byte) : (setTxQueue s .primary q).channelIndex = s.channelIndex := rfl
@[simp] theorem setPrimary_clockSkewMs (s : State) (q : List Byte) : (setTxQueue s .primary q).clockSkewMs = s.clockSkewMs := rfl
@[simp] theorem setPrimary_history (s : State) (q : List Byte) : (setTxQueue s .primary q).history = s.history := rfl
@[simp] theorem setPrimary_connState (s : State) (q : List Byte) : (setTxQueue s .primary q).connState = s.connState := rfl
@[simp] theorem setPrimary_lastContactTimestamp (s : State) (q : List Byte) : (setTxQueue s .primary q).lastContactTimestamp = s.lastContactTimestamp := rfl
@[simp] theorem setPrimary_packetStartTimestamp (s : State) (q : List Byte) : (setTxQueue s .primary q).packetStartTimestamp = s.packetStartTimestamp := rfl
@[simp] theorem setPrimary_txnOpen (s : State) (q : List Byte) : (setTxQueue s .primary q).txnOpen = s.txnOpen := rfl
@[simp] theorem setPrimary_timeouts (s : State) (q : List Byte) : (setTxQueue s .primary q).timeouts = s.timeouts := rfl
@[simp] theorem setPrimary_resets (s : State) (q : List Byte) : (setTxQueue s .primary q).resets = s.resets := rfl
@[simp] theorem setPrimary_ppmTx (s : State) (q : List Byte) : (setTxQueue s .primary q).ppmTx = s.ppmTx := rfl
@[simp] theorem setPrimary_ppmRx (s : State) (q : List Byte) : (setTxQueue s .primary q).ppmRx = s.ppmRx := rfl
@[simp] theorem setPrimary_streamToggle (s : State) (q : List Byte) : (setTxQueue s .primary q).streamToggle = s.streamToggle := rfl
@[simp] theorem setPrimary_pktBuf (s : State) (q : List Byte) : (setTxQueue s .primary q).pktBuf = s.pktBuf := rfl
@[simp] theorem setPrimary_pktLen (s : State) (q : List Byte) : (setTxQueue s .primary q).pktLen = s.pktLen := rfl
@[simp] theorem setPrimary_pktRd (s : State) (q : List Byte) : (setTxQueue s .primary q).pktRd = s.pktRd := rfl
@[simp] theorem setPrimary_txDest (s : State) (q : List Byte) : (setTxQueue s .primary q).txDest = s.txDest := rfl
@[simp] theorem setPrimary_txQueuePrimary (s : State) (q : List Byte) : (setTxQueue s .primary q).txQueuePrimary = q := rfl
@[simp] theorem setPrimary_txQueueAux (s : State) (q : List Byte) : (setTxQueue s .primary q).txQueueAux = s.txQueueAux := rfl
@[simp] theorem setPrimary_requests (s : State) (q : List Byte) : (setTxQueue s .primary q).requests = s.requests := rfl
@[simp] theorem setPrimary_answers (s : State) (q : List Byte) : (setTxQueue s .primary q).answers = s.answers := rfl
@[simp] theorem setPrimary_freeCount (s : State) (q : List Byte) : (setTxQueue s .primary q).freeCount = s.freeCount := rfl
@[simp] theorem setPrimary_result (s : State) (q : List Byte) : (setTxQueue s .primary q).result = s.result := rfl
@[simp] theorem setPrimary_trace (s : State) (q : List Byte) : (setTxQueue s .primary q).trace = s.trace := rfl

@[simp] theorem setAux_fsmState (s : State) (q : List Byte) : (setTxQueue s .aux q).fsmState = s.fsmState := rfl
@[simp] theorem setAux_eventQueue (s : State) (q : List Byte) : (setTxQueue s .aux q).eventQueue = s.eventQueue := rfl
@[simp] theorem setAux_wakeCount (s : State) (q : List Byte) : (setTxQueue s .aux q).wakeCount = s.wakeCount := rfl
@[simp] theorem setAux_lastEventTimestamp (s : State) (q : List Byte) : (setTxQueue s .aux q).lastEventTimestamp = s.lastEventTimestamp := rfl
@[simp] theorem setAux_fatal (s : State) (q : List Byte) : (setTxQueue s .aux q).fatal = s.fatal := rfl
@[simp] theorem setAux_cfg (s : State) (q : List Byte) : (setTxQueue s .aux q).cfg = s.cfg := rfl
@[simp] theorem setAux_channelTable (s : State) (q : List Byte) : (setTxQueue s .aux q).channelTable = s.channelTable := rfl
@[simp] theorem setAux_channelCount (s : State) (q : List Byte) : (setTxQueue s .aux q).channelCount = s.channelCount := rfl
@[simp] theorem setAux_channelIndex (s : State) (q : List Byte) : (setTxQueue s .aux q).channelIndex = s.channelIndex := rfl
@[simp] theorem setAux_clockSkewMs (s : State) (q : List Byte) : (setTxQueue s .aux q).clockSkewMs = s.clockSkewMs := rfl
@[simp] theorem setAux_history (s : State) (q : List Byte) : (setTxQueue s .aux q).history = s.history := rfl
@[simp] theorem setAux_connState (s : State) (q : List Byte) : (setTxQueue s .aux q).connState = s.connState := rfl
@[simp] theorem setAux_lastContactTimestamp (s : State) (q : List Byte) : (setTxQueue s .aux q).lastContactTimestamp = s.lastContactTimestamp := rfl
@[simp] theorem setAux_packetStartTimestamp (s : State) (q : List Byte) : (setTxQueue s .aux q).packetStartTimestamp = s.packetStartTimestamp := rfl
@[simp] theorem setAux_txnOpen (s : State) (q : List Byte) : (setTxQueue s .aux q).txnOpen = s.txnOpen := rfl
@[simp] theorem setAux_timeouts (s : State) (q : List Byte) : (setTxQueue s .aux q).timeouts = s.timeouts := rfl
@[simp] theorem setAux_resets (s : State) (q : List Byte) : (setTxQueue s .aux q).resets = s.resets := rfl
@[simp] theorem setAux_ppmTx (s : State) (q : List Byte) : (setTxQueue s .aux q).ppmTx = s.ppmTx := rfl
@[simp] theorem setAux_ppmRx (s : State) (q : List Byte) : (setTxQueue s .aux q).ppmRx = s.ppmRx := rfl
@[simp] theorem setAux_streamToggle (s : State) (q : List Byte) : (setTxQueue s .aux q).streamToggle = s.streamToggle := rfl
@[simp] theorem setAux_pktBuf (s : State) (q : List Byte) : (setTxQueue s .aux q).pktBuf = s.pktBuf := rfl
@[simp] theorem setAux_pktLen (s : State) (q : List Byte) : (setTxQueue s .aux q).pktLen = s.pktLen := rfl
@[simp] theorem setAux_pktRd (s : State) (q : List Byte) : (setTxQueue s .aux q).pktRd = s.pktRd := rfl
@[simp] theorem setAux_txDest (s : State) (q : List Byte) : (setTxQueue s .aux q).txDest = s.txDest := rfl
@[simp] theorem setAux_txQueuePrimary (s : State) (q : List Byte) : (setTxQueue s .aux q).txQueuePrimary = s.txQueuePrimary := rfl
@[simp] theorem setAux_txQueueAux (s : State) (q : List Byte) : (setTxQueue s .aux q).txQueueAux = q := rfl
@[simp] theorem setAux_requests (s : State) (q : List Byte) : (setTxQueue s .aux q).requests = s.requests := rfl
@[simp] theorem setAux_answers (s : State) (q : List Byte) : (setTxQueue s .aux q).answers = s.answers := rfl
@[simp] theorem setAux_freeCount (s : State) (q : List Byte) : (setTxQueue s .aux q).freeCount = s.freeCount := rfl
@[simp] theorem setAux_result (s : State) (q : List Byte) : (setTxQueue s .aux q).result = s.result := rfl
@[simp] theorem setAux_trace (s : State) (q : List Byte) : (setTxQueue s .aux q).trace = s.trace := rfl

@[simp] theorem takeTimeout_fsmState (s : State) : (takeFault .timeout s).fsmState = s.fsmState := rfl
@[simp] theorem takeTimeout_eventQueue (s : State) : (takeFault .timeout s).eventQueue = s.eventQueue := rfl
@[simp] theorem takeTimeout_wakeCount (s : State) : (takeFault .timeout s).wakeCount = s.wakeCount := rfl
@[simp] theorem takeTimeout_lastEventTimestamp (s : State) : (takeFault .timeout s).lastEventTimestamp = s.lastEventTimestamp := rfl
@[simp] theorem takeTimeout_fatal (s : State) : (takeFault .timeout s).fatal = s.fatal := rfl
@[simp] theorem takeTimeout_cfg (s : State) : (takeFault .timeout s).cfg = s.cfg := rfl
@[simp] theorem takeTimeout_channelTable (s : State) : (takeFault .timeout s).channelTable = s.channelTable := rfl
@[simp] theorem takeTimeout_channelCount (s : State) : (takeFault .timeout s).channelCount = s.channelCount := rfl
@[simp] theorem takeTimeout_channelIndex (s : State) : (takeFault .timeout s).channelIndex = s.channelIndex := rfl
@[simp] theorem takeTimeout_clockSkewMs (s : State) : (takeFault .timeout s).clockSkewMs = s.clockSkewMs := rfl
@[simp] theorem takeTimeout_history (s : State) : (takeFault .timeout s).history = s.history := rfl
@[simp] theorem takeTimeout_connState (s : State) : (takeFault .timeout s).connState = s.connState := rfl
@[simp] theorem takeTimeout_lastContactTimestamp (s : State) : (takeFault .timeout s).lastContactTimestamp = s.lastContactTimestamp := rfl
@[simp] theorem takeTimeout_packetStartTimestamp (s : State) : (takeFault .timeout s).packetStartTimestamp = s.packetStartTimestamp := rfl
@[simp] theorem takeTimeout_txnOpen (s : State) : (takeFault .timeout s).txnOpen = false := rfl
@[simp] theorem takeTimeout_timeouts (s : State) : (takeFault .timeout s).timeouts = s.timeouts + 1 := rfl
@[simp] theorem takeTimeout_resets (s : State) : (takeFault .timeout s).resets = s.resets := rfl
@[simp] theorem takeTimeout_ppmTx (s : State) : (takeFault .timeout s).ppmTx = s.ppmTx := rfl
@[simp] theorem takeTimeout_ppmRx (s : State) : (takeFault .timeout s).ppmRx = s.ppmRx := rfl
@[simp] theorem takeTimeout_streamToggle (s : State) : (takeFault .timeout s).streamToggle = s.streamToggle := rfl
@[simp] theorem takeTimeout_pktBuf (s : State) : (takeFault .timeout s).pktBuf = s.pktBuf := rfl
@[simp] theorem takeTimeout_pktLen (s : State) : (takeFault .timeout s).pktLen = 0 := rfl
@[simp] theorem takeTimeout_pktRd (s : State) : (takeFault .timeout s).pktRd = 0 := rfl
@[simp] theorem takeTimeout_txDest (s : State) : (takeFault .timeout s).txDest = s.txDest := rfl
@[simp] theorem takeTimeout_txQueuePrimary (s : State) : (takeFault .timeout s).txQueuePrimary = s.txQueuePrimary := rfl
@[simp] theorem takeTimeout_txQueueAux (s : State) : (takeFault .timeout s).txQueueAux = s.txQueueAux := rfl
@[simp] theorem takeTimeout_requests (s : State) : (takeFault .timeout s).requests = s.requests := rfl
@[simp] theorem takeTimeout_answers (s : State) : (takeFault .timeout s).answers = s.answers := rfl
@[simp] theorem takeTimeout_freeCount (s : State) : (takeFault .timeout s).freeCount = s.freeCount := rfl
@[simp] theorem takeTimeout_result (s : State) : (takeFault .timeout s).result = s.result := rfl
@[simp] theorem takeTimeout_trace (s : State) : (takeFault .timeout s).trace = s.trace := rfl

@[simp] theorem takeError_fsmState (s : State) : (takeFault .error s).fsmState = s.fsmState := rfl
@[simp] theorem takeError_eventQueue (s : State) : (takeFault .error s).eventQueue = s.eventQueue := rfl
@[simp] theorem takeError_wakeCount (s : State) : (takeFault .error s).wakeCount = s.wakeCount := rfl
@[simp] theorem takeError_lastEventTimestamp (s : State) : (takeFault .error s).lastEventTimestamp = s.lastEventTimestamp := rfl
@[simp] theorem takeError_fatal (s : State) : (takeFault .error s).fatal = s.fatal := rfl
@[simp] theorem takeError_cfg (s : State) : (takeFault .error s).cfg = s.cfg := rfl
@[simp] theorem takeError_channelTable (s : State) : (takeFault .error s).channelTable = s.channelTable := rfl
@[simp] theorem takeError_channelCount (s : State) : (takeFault .error s).channelCount = s.channelCount := rfl
@[simp] theorem takeError_channelIndex (s : State) : (takeFault .error s).channelIndex = s.channelIndex := rfl
@[simp] theorem takeError_clockSkewMs (s : State) : (takeFault .error s).clockSkewMs = s.clockSkewMs := rfl
@[simp] theorem takeError_history (s : State) : (takeFault .error s).history = s.history := rfl
@[simp] theorem takeError_connState (s : State) : (takeFault .error s).connState = s.connState := rfl
@[simp] theorem takeError_lastContactTimestamp (s : State) : (takeFault .error s).lastContactTimestamp = s.lastContactTimestamp := rfl
@[simp] theorem takeError_packetStartTimestamp (s : State) : (takeFault .error s).packetStartTimestamp = s.packetStartTimestamp := rfl
@[simp] theorem takeError_txnOpen (s : State) : (takeFault .error s).txnOpen = false := rfl
@[simp] theorem takeError_timeouts (s : State) : (takeFault .error s).timeouts = s.timeouts := rfl
@[simp] theorem takeError_resets (s : State) : (takeFault .error s).resets = s.resets + 1 := rfl
@[simp] theorem takeError_ppmTx (s : State) : (takeFault .error s).ppmTx = s.ppmTx := rfl
@[simp] theorem takeError_ppmRx (s : State) : (takeFault .error s).ppmRx = s.ppmRx := rfl
@[simp] theorem takeError_streamToggle (s : State) : (takeFault .error s).streamToggle = s.streamToggle := rfl
@[simp] theorem takeError_pktBuf (s : State) : (takeFault .error s).pktBuf = s.pktBuf := rfl
@[simp] theorem takeError_pktLen (s : State) : (takeFault .error s).pktLen = 0 := rfl
@[simp] theorem takeError_pktRd (s : State) : (takeFault .error s).pktRd = 0 := rfl
@[simp] theorem takeError_txDest (s : State) : (takeFault .error s).txDest = s.txDest := rfl
@[simp] theorem takeError_txQueuePrimary (s : State) : (takeFault .error s).txQueuePrimary = s.txQueuePrimary := rfl
@[simp] theorem takeError_txQueueAux (s : State) : (takeFault .error s).txQueueAux = s.txQueueAux := rfl
@[simp] theorem takeError_requests (s : State) : (takeFault .error s).requests = s.requests := rfl
@[simp] theorem takeError_answers (s : State) : (takeFault .error s).answers = s.answers := rfl
@[simp] theorem takeError_freeCount (s : State) : (takeFault .error s).freeCount = s.freeCount := rfl
@[simp] theorem takeError_result (s : State) : (takeFault .error s).result = s.result := rfl
@[simp] theorem takeError_trace (s : State) : (takeFault .error s).trace = s.trace := rfl

@[simp] theorem takeFatal_fsmState (s : State) : (takeFault .fatalError s).fsmState = s.fsmState := rfl
@[simp] theorem takeFatal_eventQueue (s : State) : (takeFault .fatalError s).eventQueue = s.eventQueue := rfl
@[simp] theorem takeFatal_wakeCount (s : State) : (takeFault .fatalError s).wakeCount = s.wakeCount := rfl
@[simp] theorem takeFatal_lastEventTimestamp (s : State) : (takeFault .fatalError s).lastEventTimestamp = s.lastEventTimestamp := rfl
@[simp] theorem takeFatal_fatal (s : State) : (takeFault .fatalError s).fatal = true := rfl
@[simp] theorem takeFatal_cfg (s : State) : (takeFault .fatalError s).cfg = s.cfg := rfl
@[simp] theorem takeFatal_channelTable (s : State) : (takeFault .fatalError s).channelTable = s.channelTable := rfl
@[simp] theorem takeFatal_channelCount (s : State) : (takeFault .fatalError s).channelCount = s.channelCount := rfl
@[simp] theorem takeFatal_channelIndex (s : State) : (takeFault .fatalError s).channelIndex = s.channelIndex := rfl
@[simp] theorem takeFatal_clockSkewMs (s : State) : (takeFault .fatalError s).clockSkewMs = s.clockSkewMs := rfl
@[simp] theorem takeFatal_history (s : State) : (takeFault .fatalError s).history = s.history := rfl
@[simp] theorem takeFatal_connState (s : State) : (takeFault .fatalError s).connState = s.connState := rfl
@[simp] theorem takeFatal_lastContactTimestamp (s : State) : (takeFault .fatalError s).lastContactTimestamp = s.lastContactTimestamp := rfl
@[simp] theorem takeFatal_packetStartTimestamp (s : State) : (takeFault .fatalError s).packetStartTimestamp = s.packetStartTimestamp := rfl
@[simp] theorem takeFatal_txnOpen (s : State) : (takeFault .fatalError s).txnOpen = false := rfl
@[simp] theorem takeFatal_timeouts (s : State) : (takeFault .fatalError s).timeouts = s.timeouts := rfl
@[simp] theorem takeFatal_resets (s : State) : (takeFault .fatalError s).resets = s.resets := rfl
@[simp] theorem takeFatal_ppmTx (s : State) : (takeFault .fatalError s).ppmTx = s.ppmTx := rfl
@[simp] theorem takeFatal_ppmRx (s : State) : (takeFault .fatalError s).ppmRx = s.ppmRx := rfl
@[simp] theorem takeFatal_streamToggle (s : State) : (takeFault .fatalError s).streamToggle = s.streamToggle := rfl
@[simp] theorem takeFatal_pktBuf (s : State) : (takeFault .fatalError s).pktBuf = s.pktBuf := rfl
@[simp] theorem takeFatal_pktLen (s : State) : (takeFault .fatalError s).pktLen = 0 := rfl
@[simp] theorem takeFatal_pktRd (s : State) : (takeFault .fatalError s).pktRd = 0 := rfl
@[simp] theorem takeFatal_txDest (s : State) : (takeFault .fatalError s).txDest = s.txDest := rfl
@[simp] theorem takeFatal_txQueuePrimary (s : State) : (takeFault .fatalError s).txQueuePrimary = s.txQueuePrimary := rfl
@[simp] theorem takeFatal_txQueueAux (s : State) : (takeFault .fatalError s).txQueueAux = s.txQueueAux := rfl
@[simp] theorem takeFatal_requests (s : State) : (takeFault .fatalError s).requests = s.requests := rfl
@[simp] theorem takeFatal_answers (s : State) : (takeFault .fatalError s).answers = s.answers := rfl
@[simp] theorem takeFatal_freeCount (s : State) : (takeFault .fatalError s).freeCount = s.freeCount := rfl
@[simp] theorem takeFatal_result (s : State) : (takeFault .fatalError s).result = s.result := rfl
@[simp] theorem takeFatal_trace (s : State) : (takeFault .fatalError s).trace = s.trace := rfl

@[simp] theorem setPpmRx_fsmState (p : Params) (g : Nat → RxSample) (s : State) : (setPpmRx p g s).fsmState = s.fsmState := rfl
@[simp] theorem setPpmRx_eventQueue (p : Params) (g : Nat → RxSample) (s : State) : (setPpmRx p g s).eventQueue = s.eventQueue := rfl
@[simp] theorem setPpmRx_wakeCount (p : Params) (g : Nat → RxSample) (s : State) : (setPpmRx p g s).wakeCount = s.wakeCount := rfl
@[simp] theorem setPpmRx_lastEventTimestamp (p : Params) (g : Nat → RxSample) (s : State) : (setPpmRx p g s).lastEventTimestamp = s.lastEventTimestamp := rfl
@[simp] theorem setPpmRx_fatal (p : Params) (g : Nat → RxSample) (s : State) : (setPpmRx p g s).fatal = s.fatal := rfl
@[simp] theorem setPpmRx_cfg (p : Params) (g : Nat → RxSample) (s : State) : (setPpmRx p g s).cfg = s.cfg := rfl
@[simp] theorem setPpmRx_channelTable (p : Params) (g : Nat → RxSample) (s : State) : (setPpmRx p g s).channelTable = s.channelTable := rfl
@[simp] theorem setPpmRx_channelCount (p : Params) (g : Nat → RxSample) (s : State) : (setPpmRx p g s).channelCount = s.channelCount := rfl
@[simp] theorem setPpmRx_channelIndex (p : Params) (g : Nat → RxSample) (s : State) : (setPpmRx p g s).channelIndex = s.channelIndex := rfl
@[simp] theorem setPpmRx_clockSkewMs (p : Params) (g : Nat → RxSample) (s : State) : (setPpmRx p g s).clockSkewMs = s.clockSkewMs := rfl
@[simp] theorem setPpmRx_history (p : Params) (g : Nat → RxSample) (s : State) : (setPpmRx p g s).history = s.history := rfl
@[simp] theorem setPpmRx_connState (p : Params) (g : Nat → RxSample) (s : State) : (setPpmRx p g s).connState = s.connState := rfl
@[simp] theorem setPpmRx_lastContactTimestamp (p : Params) (g : Nat → RxSample) (s : State) : (setPpmRx p g s).lastContactTimestamp = s.lastContactTimestamp := rfl
@[simp] theorem setPpmRx_packetStartTimestamp (p : Params) (g : Nat → RxSample) (s : State) : (setPpmRx p g s).packetStartTimestamp = s.packetStartTimestamp := rfl
@[simp] theorem setPpmRx_txnOpen (p : Params) (g : Nat → RxSample) (s : State) : (setPpmRx p g s).txnOpen = s.txnOpen := rfl
@[simp] theorem setPpmRx_timeouts (p : Params) (g : Nat → RxSample) (s : State) : (setPpmRx p g s).timeouts = s.timeouts := rfl
@[simp] theorem setPpmRx_resets (p : Params) (g : Nat → RxSample) (s : State) : (setPpmRx p g s).resets = s.resets := rfl
@[simp] theorem setPpmRx_ppmTx (p : Params) (g : Nat → RxSample) (s : State) : (setPpmRx p g s).ppmTx = s.ppmTx := rfl
@[simp] theorem setPpmRx_streamToggle (p : Params) (g : Nat → RxSample) (s : State) : (setPpmRx p g s).streamToggle = s.streamToggle := rfl
@[simp] theorem setPpmRx_pktBuf (p : Params) (g : Nat → RxSample) (s : State) : (setPpmRx p g s).pktBuf = s.pktBuf := rfl
@[simp] theorem setPpmRx_pktLen (p : Params) (g : Nat → RxSample) (s : State) : (setPpmRx p g s).pktLen = s.pktLen := rfl
@[simp] theorem setPpmRx_pktRd (p : Params) (g : Nat → RxSample) (s : State) : (setPpmRx p g s).pktRd = s.pktRd := rfl
@[simp] theorem setPpmRx_txDest (p : Params) (g : Nat → RxSample) (s : State) : (setPpmRx p g s).txDest = s.txDest := rfl
@[simp] theorem setPpmRx_txQueuePrimary (p : Params) (g : Nat → RxSample) (s : State) : (setPpmRx p g s).txQueuePrimary = s.txQueuePrimary := rfl
@[simp] theorem setPpmRx_txQueueAux (p : Params) (g : Nat → RxSample) (s : State) : (setPpmRx p g s).txQueueAux = s.txQueueAux := rfl
@[simp] theorem setPpmRx_requests (p : Params) (g : Nat → RxSample) (s : State) : (setPpmRx p g s).requests = s.requests := rfl
@[simp] theorem setPpmRx_answers (p : Params) (g : Nat → RxSample) (s : State) : (setPpmRx p g s).answers = s.answers := rfl
@[simp] theorem setPpmRx_freeCount (p : Params) (g : Nat → RxSample) (s : State) : (setPpmRx p g s).freeCount = s.freeCount := rfl
@[simp] theorem setPpmRx_result (p : Params) (g : Nat → RxSample) (s : State) : (setPpmRx p g s).result = s.result := rfl
@[simp] theorem setPpmRx_trace (p : Params) (g : Nat → RxSample) (s : State) : (setPpmRx p g s).trace = s.trace := rfl

@[simp] theorem setTxQueue_same (s : State) (id : StreamId) (q : List Byte) : txQueue (setTxQueue s id q) id = q := by
  cases id <;> rfl

end Sys2Proof.Machine
end

