-- ==== Sys2Proof/Laws/Ops.lean ====
section
/-! SUPPORT. One lemma for each shared operation, saying what it can answer, so that later proofs cite it. -/

namespace Sys2Proof.Machine

/-! ### Refusals -/

theorem bind_eq_ok {α β : Type} {x : Except Fault α} {f : α → Except Fault β} {b : β} :
    (x >>= f) = .ok b ↔ ∃ a, x = .ok a ∧ f a = .ok b := by
  cases x with
  | error e => simp [bind, Except.bind]
  | ok a => simp [bind, Except.bind]

theorem bind_eq_error {α β : Type} {x : Except Fault α} {f : α → Except Fault β} {e : Fault} :
    (x >>= f) = .error e ↔ x = .error e ∨ ∃ a, x = .ok a ∧ f a = .error e := by
  cases x with
  | error e => simp [bind, Except.bind]
  | ok a => simp [bind, Except.bind]

@[simp] theorem ok_bind {α β : Type} (a : α) (f : α → Except Fault β) : (Except.ok a >>= f) = f a := rfl

@[simp] theorem error_bind {α β : Type} (e : Fault) (f : α → Except Fault β) : (Except.error e >>= f) = .error e := rfl

@[simp] theorem pure_eq_ok {α : Type} (a : α) : (pure a : Except Fault α) = .ok a := rfl

@[simp] theorem throw_eq_error {α : Type} (e : Fault) : (throw e : Except Fault α) = .error e := rfl

@[simp] theorem need_some {α : Type} (a : α) : need (some a) = .ok a := rfl

@[simp] theorem need_none {α : Type} : need (none : Option α) = .error .configUnset := rfl

theorem need_eq_ok {α : Type} {o : Option α} {a : α} : need o = .ok a ↔ o = some a := by
  cases o <;> simp

theorem need_eq_error {α : Type} {o : Option α} {e : Fault} : need o = .error e ↔ o = none ∧ e = .configUnset := by
  cases o <;> simp [eq_comm]

@[simp] theorem finish_ok (s : State) : finish (.ok s) = .next s := rfl

@[simp] theorem finish_error (f : Fault) : finish (.error f) = .fault f := rfl

theorem finish_eq_next {x : Except Fault State} {t : State} : finish x = .next t ↔ x = .ok t := by
  cases x <;> simp [finish]

theorem finish_eq_fault {x : Except Fault State} {f : Fault} : finish x = .fault f ↔ x = .error f := by
  cases x <;> simp [finish]

/-- The machine is the operations at this node's parameters. -/
theorem exec_eq (i : Instr) (s : State) : exec i s = finish (runAt Config.params i s) := by cases i <;> rfl

theorem exec_eq_next {i : Instr} {s t : State} : exec i s = .next t ↔ runAt Config.params i s = .ok t := by
  rw [exec_eq, finish_eq_next]

theorem step_nil {s : State} (h : s.requests = []) : step s = .next s := by unfold step; rw [h]

theorem step_cons {s : State} {r : Request} {rest : List Request} {i : Instr} (h : s.requests = r :: rest)
    (hd : decode r = .ok i) : step s = exec i { s with requests := rest } := by
  unfold step; rw [h]; simp only [hd]

/-- A next state is an idle step or the decoded operation's. -/
theorem step_eq_next {s t : State} (h : step s = .next t) :
    t = s ∨ ∃ r rest i, s.requests = r :: rest ∧ decode r = .ok i ∧
      runAt Config.params i { s with requests := rest } = .ok t := by
  unfold step at h
  split at h
  · left; cases h; rfl
  · rename_i r rest hr
    split at h
    · rename_i i hi; exact .inr ⟨r, rest, i, hr, hi, exec_eq_next.1 h⟩
    · cases h

/-! ### Files of a fixed size -/

theorem vecOf_toList_getD {α : Type} (n : Nat) (f : Nat → α) (k : Nat) (d : α) :
    (vecOf n f).toList.getD k d = if k < n then f k else d := by
  simp only [vecOf, Vector.toList]
  by_cases h : k < n <;> simp [h]

theorem vecOf_getElem {α : Type} (n : Nat) (f : Nat → α) (k : Nat) (h : k < n) : (vecOf n f)[k] = f k := by
  simp [vecOf]

/-! ### The packet buffer -/

theorem bufPush_no_room {m : BitVec 8} {data : List Byte} {s : State} (h : m.toNat < s.pktLen.toNat + data.length) :
    bufPush m data s = (false, s) := by simp [bufPush, h]

theorem bufPush_room {m : BitVec 8} {data : List Byte} {s : State} (h : s.pktLen.toNat + data.length ≤ m.toNat) :
    bufPush m data s = (true, { s with
      pktBuf := Memory.writeRange s.pktBuf s.pktLen.toNat data
      pktLen := BitVec.ofNat 8 (s.pktLen.toNat + data.length) }) := by
  simp [bufPush, Nat.not_lt.2 h]

/-- A push answers no and changes nothing, or appends. -/
theorem bufPush_cases (m : BitVec 8) (data : List Byte) (s : State) :
    (bufPush m data s = (false, s) ∧ m.toNat < s.pktLen.toNat + data.length) ∨
    (s.pktLen.toNat + data.length ≤ m.toNat ∧ bufPush m data s = (true, { s with
      pktBuf := Memory.writeRange s.pktBuf s.pktLen.toNat data
      pktLen := BitVec.ofNat 8 (s.pktLen.toNat + data.length) })) := by
  rcases Nat.lt_or_ge m.toNat (s.pktLen.toNat + data.length) with h | h
  · exact .inl ⟨bufPush_no_room h, h⟩
  · exact .inr ⟨h, bufPush_room h⟩

theorem bufPop_snd (n : BitVec 8) (s : State) :
    (bufPop n s).2 = { s with pktRd := BitVec.ofNat 8 (s.pktRd.toNat + min n.toNat (s.pktLen.toNat - s.pktRd.toNat)) } := rfl

theorem ppmUnpack_snd (p : Params) (bytes : List Byte) (w : Bool) (s : State) :
    ∃ f, (ppmUnpack p bytes w s).2 = setPpmRx p f s := by
  unfold ppmUnpack
  split <;> exact ⟨_, rfl⟩

/-! ### Transport answers -/

theorem takeAnswer_snd {α : Type} (l : List α) (free : Nat → α) (keep : List α → Answers) (s : State) :
    ∃ a n, (takeAnswer l free keep s).2 = { s with answers := a, freeCount := n } := by
  unfold takeAnswer
  cases l with
  | nil => exact ⟨s.answers, s.freeCount + 1, rfl⟩
  | cons x xs => exact ⟨keep xs, s.freeCount, rfl⟩

/-! ### Frames -/

/-- What `FRAME.BUILD` can answer: a PPM-only payload, or a multiplexed one with the toggle flipped and the bytes taken. -/
theorem frameBuild_cases {p : Params} {s t : State} {f : BuiltFrame} (h : frameBuild p s = .ok (f, t)) :
    ∃ ppmSend maxLen dest, s.cfg.ppmSend = some ppmSend ∧ s.cfg.maxPacketLen = some maxLen ∧ s.cfg.peerId = some dest ∧
      ((s.cfg.ppmOnly = some true ∧
          (let sub := if ppmSend then ppmPack p s.ppmTx true else []
           sub.length ≤ maxLen.toNat ∧
           f = { len := BitVec.ofNat 8 sub.length, destId := dest, haveData := ppmSend } ∧ t = loadFrame sub dest s)) ∨
       (s.cfg.ppmOnly = some false ∧
          (let sub := if ppmSend then ppmPack p s.ppmTx false else []
           let sel := streamOfToggle s.streamToggle
           let n := min (txQueue s sel).length (maxLen.toNat - muxFixedLen p sub.length)
           let body := sub ++ [selectorOf sel] ++ (txQueue s sel).take n
           muxFixedLen p sub.length ≤ maxLen.toNat ∧
           f = { len := BitVec.ofNat 8 (body ++ p.fecEncode body).length, destId := dest,
                 haveData := ppmSend || decide (0 < n) } ∧
           t = loadFrame (body ++ p.fecEncode body) dest
                 (setTxQueue { s with streamToggle := !s.streamToggle } sel ((txQueue s sel).drop n))))) := by
  unfold frameBuild at h
  simp only [bind_eq_ok, need_eq_ok] at h
  obtain ⟨ppmSend, hs, ppmOnly, ho, maxLen, hm, h⟩ := h
  refine ⟨ppmSend, maxLen, ?_⟩
  cases ppmOnly with
  | true =>
    simp only [if_true] at h
    generalize hsub : (if ppmSend then ppmPack p s.ppmTx true else []) = sub at h ⊢
    by_cases hlen : maxLen.toNat < sub.length
    · simp [hlen] at h
    · simp only [if_neg hlen, bind_eq_ok, need_eq_ok, pure_eq_ok] at h
      obtain ⟨dest, hd, h⟩ := h
      cases h
      exact ⟨dest, hs, hm, hd, .inl ⟨ho, Nat.not_lt.1 hlen, rfl, rfl⟩⟩
  | false =>
    simp only [Bool.false_eq_true, if_false] at h
    generalize hsub : (if ppmSend then ppmPack p s.ppmTx false else []) = sub at h ⊢
    by_cases hlen : maxLen.toNat < muxFixedLen p sub.length
    · simp [hlen] at h
    · simp only [if_neg hlen, bind_eq_ok, need_eq_ok, pure_eq_ok] at h
      obtain ⟨dest, hd, h⟩ := h
      cases h
      exact ⟨dest, hs, hm, hd, .inr ⟨ho, Nat.not_lt.1 hlen, rfl, rfl⟩⟩

theorem deliverBody_snd (p : Params) (r : Bool) (o : OutcomeCode) (body : List Byte) (s : State) :
    (deliverBody p r o body s).2 = s ∨ ∃ f, (deliverBody p r o body s).2 = setPpmRx p f s := by
  unfold deliverBody
  cases r with
  | false =>
    left
    simp only [Bool.false_eq_true, if_false]
    split <;> rfl
  | true =>
    right
    obtain ⟨f, hf⟩ := ppmUnpack_snd p (body.take (1 + p.numPpmCh)) false s
    refine ⟨f, ?_⟩
    simp only [if_true]
    split <;> exact hf

theorem parsePpmOnly_snd (p : Params) (r : Bool) (buf : List Byte) (s : State) :
    (parsePpmOnly p r buf s).2 = s ∨ ∃ f, (parsePpmOnly p r buf s).2 = setPpmRx p f s := by
  unfold parsePpmOnly
  by_cases hl : buf.length ≠ (if r then p.numPpmCh + 2 else 0)
  · rw [if_pos hl]; exact .inl rfl
  · rw [if_neg hl]
    cases r with
    | true => exact .inr (ppmUnpack_snd p buf true s)
    | false => exact .inl rfl

theorem parseMux_snd (p : Params) (r : Bool) (buf : List Byte) (s : State) :
    (parseMux p r buf s).2 = s ∨ ∃ f, (parseMux p r buf s).2 = setPpmRx p f s := by
  unfold parseMux
  by_cases hl : buf.length < muxFixedLen p (if r then 1 + p.numPpmCh else 0)
  · rw [if_pos hl]; exact .inl rfl
  · rw [if_neg hl]
    cases p.fecDecode buf with
    | clean => exact deliverBody_snd ..
    | corrected d => exact deliverBody_snd ..
    | uncorrectable => exact .inl rfl

/-- `FRAME.PARSE` writes `ppmRx` only (rule R130). -/
theorem frameParse_snd {p : Params} {len : BitVec 8} {s t : State} {f : ParsedFrame}
    (h : frameParse p len s = .ok (f, t)) : t = s ∨ ∃ g, t = setPpmRx p g s := by
  unfold frameParse at h
  split at h
  · cases h; exact .inl rfl
  · simp only [bind_eq_ok, need_eq_ok, pure_eq_ok, Except.ok.injEq] at h
    obtain ⟨o, -, r, -, h⟩ := h
    have h2 := congrArg Prod.snd h
    cases o with
    | true => simp only [if_true] at h2; rw [← h2]; exact parsePpmOnly_snd ..
    | false => simp only [Bool.false_eq_true, if_false] at h2; rw [← h2]; exact parseMux_snd ..

/-! ### Clock and hop -/

/-- `CLK.SYNC` writes `clockSkewMs` on a peer, nothing on a coordinator (rule R158). -/
theorem clkSync_cases {p : Params} {s t : State} {v : BitVec 32} (h : clkSync p s = .ok (v, t)) :
    (s.cfg.role = some .coordinator ∧ t = s ∧ v = s.clockSkewMs) ∨
    (s.cfg.role = some .peer ∧ t = { s with clockSkewMs := v } ∧ s.channelCount.val ≠ 0 ∧
      ∃ period datarate, s.cfg.packetPeriodMs = some period ∧ s.cfg.datarate = some datarate ∧
        v = learnedSkew period s.channelCount.val s.packetStartTimestamp (p.preambleOffsetOf datarate) s.channelIndex.val) := by
  unfold clkSync at h
  simp only [bind_eq_ok, need_eq_ok] at h
  obtain ⟨role, hr, h⟩ := h
  cases role with
  | coordinator => simp only [pure_eq_ok] at h; cases h; exact .inl ⟨hr, rfl, rfl⟩
  | peer =>
    simp only at h
    split at h
    · simp at h
    · rename_i hc
      simp only [bind_eq_ok, need_eq_ok, pure_eq_ok] at h
      obtain ⟨period, hp, datarate, hd, h⟩ := h
      cases h
      exact .inr ⟨hr, rfl, hc, period, datarate, hp, hd, rfl⟩

theorem hopTarget_lt {role : Role} {now : Tick} {s : State} {hne : s.channelCount.val ≠ 0} {i : Fin 32}
    (h : hopTarget role now s hne = .ok i) : i.val < s.channelCount.val := by
  unfold hopTarget at h
  split at h
  · cases h; exact Nat.pos_of_ne_zero hne
  · simp only [bind_eq_ok, need_eq_ok, pure_eq_ok] at h
    obtain ⟨period, -, h⟩ := h
    cases h
    exact Nat.mod_lt _ (Nat.pos_of_ne_zero hne)

/-- `HOP.EVAL` writes the index and the latch; the index lies in the table (rule R160). -/
theorem hopEval_cases {p : Params} {now : Tick} {s t : State} {c : BitVec 8} {changed : Bool}
    (h : hopEval p now s = .ok (c, changed, t)) :
    ∃ idx conn, t = { s with connState := conn, channelIndex := idx } ∧ idx.val < s.channelCount.val ∧
      c = channelAt s idx ∧ changed = (idx != s.channelIndex) ∧ s.cfg.role.isSome = true := by
  unfold hopEval at h
  split at h
  · cases h
  · rename_i hne
    simp only [bind_eq_ok, need_eq_ok, pure_eq_ok] at h
    obtain ⟨role, hr, target, ht, h⟩ := h
    cases h
    refine ⟨_, _, rfl, ?_, rfl, rfl, by rw [hr]; rfl⟩
    split
    · exact Nat.pos_of_ne_zero hne
    · exact hopTarget_lt ht

/-! ### Events -/

theorem evPost_full {p : Params} {e : Event} {s : State} (h : p.eventQueueCap ≤ s.eventQueue.length) :
    evPost p e s = (false, s) := by simp [evPost, h]

theorem evPost_free {p : Params} {e : Event} {s : State} (h : s.eventQueue.length < p.eventQueueCap) :
    evPost p e s = (true, { s with eventQueue := s.eventQueue ++ [e], wakeCount := s.wakeCount + 1 }) := by
  simp [evPost, Nat.not_le.2 h]

/-- A state whose table is empty has its index at 0. -/
theorem chGen_table (p : Params) (t : TableInputs) (s : State) (k : Nat)
    (h : k < (evenCount (generatedChannels p t).length).val) :
    tableEntry (chGen p t s) k = BitVec.ofNat 8 ((generatedChannels p t).getD k 0) := by
  have hk : k < 32 := by
    have := (evenCount (generatedChannels p t).length).isLt
    omega
  simp only [tableEntry, chGen, vecOf_toList_getD, if_pos hk, if_pos h]

end Sys2Proof.Machine
end

