-- ==== Sys2Proof/Laws/Codec.lean ====
section
/-! SUPPORT. The packet codec's arithmetic: the PPM map, the LSB byte, the checksum, the lengths of what is built. -/

namespace Sys2Proof.Machine

/-! ### The PPM map -/

theorem ppmSpan_pos (p : Params) : 0 < ppmSpan p := by
  have := p.ppmMin_lt_max
  unfold ppmSpan
  omega

/-- The scaled offset of a clamped sample stays below the last code. -/
theorem ppmSteps_le (p : Params) (us : Nat) :
    (clampNat us p.ppmMinUs p.ppmMaxUs - p.ppmMinUs) * ppmCodeSteps / ppmSpan p ≤ 510 := by
  have h := p.ppmMin_lt_max
  rw [Nat.div_le_iff_le_mul_add_pred (ppmSpan_pos p)]
  have : clampNat us p.ppmMinUs p.ppmMaxUs - p.ppmMinUs ≤ ppmSpan p := by unfold clampNat ppmSpan; omega
  calc _ ≤ ppmSpan p * ppmCodeSteps := Nat.mul_le_mul_right _ this
    _ = ppmSpan p * 510 := rfl
    _ ≤ _ := by omega

theorem ppmCodeOf_toNat (p : Params) (us : BitVec 16) :
    (ppmCodeOf p (.valid us)).toNat =
      1 + (clampNat us.toNat p.ppmMinUs p.ppmMaxUs - p.ppmMinUs) * ppmCodeSteps / ppmSpan p := by
  have := ppmSteps_le p us.toNat
  simp only [ppmCodeOf, BitVec.toNat_ofNat]
  exact Nat.mod_eq_of_lt (by omega)

/-- The microseconds of a code lie between the two ends. -/
theorem ppmUs_le (p : Params) (code : BitVec 9) :
    p.ppmMinUs + (code.toNat - 1) * ppmSpan p / ppmCodeSteps ≤ p.ppmMaxUs := by
  have h := p.ppmMin_lt_max
  have : (code.toNat - 1) * ppmSpan p / ppmCodeSteps ≤ ppmSpan p := by
    refine Nat.div_le_of_le_mul ?_
    exact Nat.mul_le_mul_right _ (by have := code.isLt; simp only [ppmCodeSteps]; omega)
  unfold ppmSpan at this ⊢
  omega

theorem ppmSampleOf_valid (p : Params) {code : BitVec 9} (h : code ≠ 0) :
    ∃ us : BitVec 16, ppmSampleOf p code = .valid us ∧
      us.toNat = p.ppmMinUs + (code.toNat - 1) * ppmSpan p / ppmCodeSteps := by
  refine ⟨_, by unfold ppmSampleOf; rw [if_neg h], ?_⟩
  have := ppmUs_le p code
  have := p.ppmMax_lt
  rw [BitVec.toNat_ofNat]
  exact Nat.mod_eq_of_lt (by omega)

/-! ### Bytes -/

theorem checksum_toNat (bytes : List Byte) : (checksum bytes).toNat = byteSum bytes % 256 := by
  induction bytes with
  | nil => rfl
  | cons b bs ih =>
    simp only [checksum, byteSum, List.map_cons, List.sum_cons, BitVec.toNat_add, ih]
    simp [Nat.add_mod]

theorem checksum_eq (bytes : List Byte) : checksum bytes = BitVec.ofNat 8 (byteSum bytes) := by
  apply BitVec.eq_of_toNat_eq
  rw [checksum_toNat, BitVec.toNat_ofNat]

theorem lsbNat_lt (cs : List (BitVec 9)) : lsbNat cs < 2 ^ cs.length := by
  induction cs with
  | nil => simp [lsbNat]
  | cons c cs ih => simp only [lsbNat, List.length_cons, Nat.pow_succ]; omega

/-- Bit `i` of the LSB byte is bit 0 of code `i`. -/
theorem lsbNat_bit (cs : List (BitVec 9)) (i : Nat) :
    lsbNat cs / 2 ^ i % 2 = ((cs[i]?).getD 0).toNat % 2 := by
  induction cs generalizing i with
  | nil => simp [lsbNat]
  | cons c cs ih =>
    cases i with
    | zero => simp [lsbNat, Nat.add_mod]
    | succ i =>
      have : (c.toNat % 2 + 2 * lsbNat cs) / 2 = lsbNat cs := by omega
      rw [lsbNat, Nat.pow_succ, Nat.mul_comm (2 ^ i) 2, ← Nat.div_div_eq_div_mul, this, ih]
      simp

theorem channelByte_toNat (c : BitVec 9) : (channelByte c).toNat = c.toNat / 2 := by
  have := c.isLt
  simp only [channelByte, BitVec.extractLsb'_toNat, Nat.shiftRight_eq_div_pow]
  omega

/-- The code put together again, as a number. -/
theorem assembleCode_eq (lsb b : Byte) (i : Nat) :
    assembleCode lsb b i = BitVec.ofNat 9 (2 * b.toNat + lsb.toNat / 2 ^ i % 2) := by
  have hb := b.isLt
  have h1 : ((b.setWidth 9 <<< 1 : BitVec 9)).toNat = 2 * b.toNat := by
    simp only [BitVec.toNat_shiftLeft, BitVec.toNat_setWidth, Nat.shiftLeft_eq]
    omega
  have h2 : (((lsb >>> i).setWidth 9 &&& 1#9 : BitVec 9)).toNat = lsb.toNat / 2 ^ i % 2 := by
    have hl := lsb.isLt
    have : lsb.toNat / 2 ^ i ≤ lsb.toNat := Nat.div_le_self _ _
    simp only [BitVec.toNat_and, BitVec.toNat_setWidth, BitVec.toNat_ushiftRight, Nat.shiftRight_eq_div_pow,
      BitVec.toNat_ofNat]
    rw [Nat.mod_eq_of_lt (a := lsb.toNat / 2 ^ i) (by omega)]
    exact Nat.and_one_is_mod _
  apply BitVec.eq_of_toNat_eq
  rw [assembleCode, BitVec.toNat_or, h1, h2, BitVec.toNat_ofNat]
  generalize hx : lsb.toNat / 2 ^ i % 2 = x
  have hlt : x < 2 ^ 1 := by omega
  rw [Nat.mod_eq_of_lt (by omega), show 2 * b.toNat = 2 ^ 1 * b.toNat by omega, Nat.two_pow_add_eq_or_of_lt hlt]

/-- Splitting a code and putting it together gives it back (rule R87). -/
theorem assembleCode_split (cs : List (BitVec 9)) (i : Nat) (h : i < cs.length) (h8 : cs.length ≤ 8) :
    assembleCode (BitVec.ofNat 8 (lsbNat cs)) (channelByte cs[i]) i = cs[i] := by
  apply BitVec.eq_of_toNat_eq
  have hlt : lsbNat cs < 256 := Nat.lt_of_lt_of_le (lsbNat_lt cs) (Nat.pow_le_pow_right (by omega) h8)
  have := cs[i].isLt
  rw [assembleCode_eq, BitVec.toNat_ofNat, channelByte_toNat, BitVec.toNat_ofNat, Nat.mod_eq_of_lt (a := lsbNat cs) hlt, lsbNat_bit]
  simp only [List.getElem?_eq_getElem h, Option.getD_some]
  omega

/-! ### What is built -/

@[simp] theorem ppmCodes_length (p : Params) (tx : Vector TxSample 8) : (ppmCodes p tx).length = p.numPpmCh := by
  have : p.numPpmCh ≤ 8 := by have := p.morePpmCh.isLt; unfold Params.numPpmCh; omega
  simp [ppmCodes, this]

theorem ppmCodes_getElem? (p : Params) (tx : Vector TxSample 8) (i : Nat) (h : i < p.numPpmCh) :
    (ppmCodes p tx)[i]? = (tx.toList[i]?).map (ppmCodeOf p) := by
  simp [ppmCodes, h]

theorem numPpmCh_le (p : Params) : 1 ≤ p.numPpmCh ∧ p.numPpmCh ≤ 8 := by
  have := p.morePpmCh.isLt
  unfold Params.numPpmCh
  omega

theorem ppmPack_length (p : Params) (tx : Vector TxSample 8) (w : Bool) :
    (ppmPack p tx w).length = 1 + p.numPpmCh + w.toNat := by
  cases w <;> simp [ppmPack, Nat.add_comm]

/-- The sub-frame's fixed part, which the checksum covers. -/
theorem ppmPack_true (p : Params) (tx : Vector TxSample 8) :
    ppmPack p tx true = ppmPack p tx false ++ [checksum (ppmPack p tx false)] := rfl

theorem ppmPack_lsb (p : Params) (tx : Vector TxSample 8) (w : Bool) :
    (ppmPack p tx w).getD 0 0 = BitVec.ofNat 8 (lsbNat (ppmCodes p tx)) := by
  cases w <;> rfl

theorem ppmPack_channel (p : Params) (tx : Vector TxSample 8) (w : Bool) (i : Nat) (h : i < p.numPpmCh) :
    (ppmPack p tx w).getD (1 + i) 0 = channelByte ((ppmCodes p tx)[i]'(by simpa using h)) := by
  cases w <;> simp [ppmPack, Nat.add_comm 1 i, List.getElem?_append, h]

theorem ppmPack_fixed (p : Params) (tx : Vector TxSample 8) (w : Bool) :
    (ppmPack p tx w).take (1 + p.numPpmCh) = ppmPack p tx false := by
  have h := ppmPack_length p tx false
  simp only [Bool.toNat_false, Nat.add_zero] at h
  cases w with
  | false => exact List.take_of_length_le (by omega)
  | true => rw [ppmPack_true, ← h, List.take_left]

/-- Unpacking what was packed for the samples `tx` (rules R115, R116). -/
theorem subframeSample_pack (p : Params) (tx : Vector TxSample 8) (w : Bool) (rest : List Byte) (i : Nat) (h : i < p.numPpmCh)
    (h8 : i < 8) : subframeSample p (ppmPack p tx w ++ rest) i = ppmSampleOf p (ppmCodeOf p tx[i]) := by
  have hl := ppmPack_length p tx w
  have hi : i < (ppmCodes p tx).length := by simpa using h
  have e : ∀ k, k < 1 + p.numPpmCh → (ppmPack p tx w ++ rest).getD k 0 = (ppmPack p tx w).getD k 0 := by
    intro k hk
    simp only [List.getD_eq_getElem?_getD]
    rw [List.getElem?_append_left (by omega)]
  have hc : (ppmCodes p tx)[i] = ppmCodeOf p tx[i] := by
    have := ppmCodes_getElem? p tx i h
    rw [List.getElem?_eq_getElem hi] at this
    simpa [h8] using this
  rw [subframeSample, e 0 (by omega), e (1 + i) (by omega), ppmPack_lsb, ppmPack_channel p tx w i h,
    assembleCode_split _ _ hi (by simpa using (numPpmCh_le p).2), hc]

theorem setPpmRx_getElem (p : Params) (f : Nat → RxSample) (s : State) (i : Nat) (h : i < 8) :
    (setPpmRx p f s).ppmRx[i] = if i < p.numPpmCh then f i else s.ppmRx[i] := by
  simp only [setPpmRx, vecOf_getElem]
  split
  · rfl
  · simp [h]

/-- `FRAME.BUILD` in multiplexed mode, when the layout fits (rule R125). -/
theorem frameBuild_multiplexed {p : Params} {s : State} {ppmSend : Bool} {maxLen : BitVec 8} {dest : Word32} {sub : List Byte}
    (h1 : s.cfg.ppmOnly = some false) (h2 : s.cfg.ppmSend = some ppmSend) (h3 : s.cfg.maxPacketLen = some maxLen)
    (h4 : s.cfg.peerId = some dest) (hsub : sub = if ppmSend then ppmPack p s.ppmTx false else [])
    (fits : muxFixedLen p sub.length ≤ maxLen.toNat) {sel : StreamId} (hsel : sel = streamOfToggle s.streamToggle) {n : Nat}
    (hn : n = min (txQueue s sel).length (maxLen.toNat - muxFixedLen p sub.length)) {body : List Byte}
    (hbody : body = sub ++ [selectorOf sel] ++ (txQueue s sel).take n) :
    frameBuild p s = .ok
      ({ len := BitVec.ofNat 8 (body ++ p.fecEncode body).length, destId := dest, haveData := ppmSend || decide (0 < n) },
        loadFrame (body ++ p.fecEncode body) dest
          (setTxQueue { s with streamToggle := !s.streamToggle } sel ((txQueue s sel).drop n))) := by
  unfold frameBuild
  simp only [h1, h2, h3, need_some, ok_bind, if_false, Bool.false_eq_true]
  rw [← hsub, if_neg (Nat.not_lt.2 fits), h4]
  simp only [need_some, ok_bind, pure_eq_ok]
  rw [← hsel, ← hn, ← hbody]

theorem frameBuild_no_room {p : Params} {s : State} {ppmSend : Bool} {maxLen : BitVec 8} {sub : List Byte}
    (h1 : s.cfg.ppmOnly = some false) (h2 : s.cfg.ppmSend = some ppmSend) (h3 : s.cfg.maxPacketLen = some maxLen)
    (hsub : sub = if ppmSend then ppmPack p s.ppmTx false else []) (short : maxLen.toNat < muxFixedLen p sub.length) :
    frameBuild p s = .error .configInvalid := by
  unfold frameBuild
  simp only [h1, h2, h3, need_some, ok_bind, if_false, Bool.false_eq_true]
  rw [← hsub, if_pos short]
  rfl

/-- What an unpacking leaves in the samples (rule R116). -/
theorem ppmUnpack_getElem (p : Params) (bytes : List Byte) (w : Bool) (s : State) (i : Nat) (h : i < 8) :
    (ppmUnpack p bytes w s).2.ppmRx[i] = if i < p.numPpmCh then
      (if (ppmUnpack p bytes w s).1 then subframeSample p bytes i else .timeout) else s.ppmRx[i] := by
  unfold ppmUnpack
  split <;> simp [setPpmRx_getElem]

/-- A packed sub-frame passes its own checksum. -/
theorem checksumOk_pack (p : Params) (tx : Vector TxSample 8) : checksumOk p (ppmPack p tx true) = true := by
  have h := ppmPack_length p tx false
  simp only [Bool.toNat_false, Nat.add_zero] at h
  unfold checksumOk
  rw [ppmPack_fixed, ppmPack_true, decide_eq_true_eq, ← h]
  simp

/-- Unpacking a packed sub-frame succeeds and gives back every sample's decoded code. -/
theorem ppmUnpack_pack (p : Params) (tx : Vector TxSample 8) (w : Bool) (s : State) :
    (ppmUnpack p (ppmPack p tx w) w s).1 = true ∧
    ∀ (i : Nat) (h : i < 8), i < p.numPpmCh →
      (ppmUnpack p (ppmPack p tx w) w s).2.ppmRx[i] = ppmSampleOf p (ppmCodeOf p tx[i]) := by
  have h1 : (ppmUnpack p (ppmPack p tx w) w s).1 = true := by
    unfold ppmUnpack
    cases w with
    | false => rfl
    | true => rw [checksumOk_pack]; rfl
  refine ⟨h1, fun i h hi => ?_⟩
  rw [ppmUnpack_getElem, if_pos hi, h1, if_pos rfl]
  have := subframeSample_pack p tx w [] i hi h
  rwa [List.append_nil] at this

/-- The record a correct-length `PPM.UNPACK` answers. -/
theorem ppmUnpack_state (p : Params) (bytes : List Byte) (w : Bool) (s : State) :
    (ppmUnpack p bytes w s).2 = { s with ppmRx := (ppmUnpack p bytes w s).2.ppmRx } := by
  obtain ⟨f, hf⟩ := ppmUnpack_snd p bytes w s
  rw [hf]
  rfl

end Sys2Proof.Machine
end

