-- ==== Sys2Proof/Laws/Effects.lean ====
section
/-! SUPPORT. What each operation does to the state when it answers, said once: the state before the result ports are written. -/

namespace Sys2Proof.Machine

/-- `u` is the state the operation leaves, its results put aside. -/
def Effect (p : Params) (s u : State) : Instr → Prop
  | .init => u = initBlock s
  | .cfgSet field value => ∃ c, writeCfg p s.cfg field value = some c ∧
      u = postReinit p (if field ≤ 5 then regenerate p { s with cfg := c } else { s with cfg := c })
  | .statsGet now _ => u = (stTochk p now s).2
  | .ppmSet ch sample => ch < p.numPpmCh ∧ u = { s with ppmTx := s.ppmTx.setIfInBounds ch sample }
  | .ppmGet _ => u = s
  | .streamTx streamId data => ∃ id, streamOfCode streamId = some id ∧
      u = setTxQueue s id (txQueue s id ++ data.take (min data.length (p.streamQueueCap - (txQueue s id).length)))
  | .ppmEnc _ => u = s
  | .ppmDec _ => u = s
  | .ppmPack _ => u = s
  | .ppmUnpack _ _ => ∃ f, u = setPpmRx p f s
  | .csum _ => u = s
  | .frameBuild => ∃ f, frameBuild p s = .ok (f, u)
  | .frameParse len => ∃ f, frameParse p len s = .ok (f, u)
  | .bufReset => u = bufReset s
  | .bufPush data => ∃ m, s.cfg.maxPacketLen = some m ∧ u = (bufPush m data s).2
  | .bufPop n => u = (bufPop n s).2
  | .hdrBuild _ _ => u = s
  | .hdrParse _ => u = s
  | .chGen => ∃ t, tableInputs s.cfg = some t ∧ u = chGen p t s
  | .chAt _ => u = s
  | .clkTime _ => u = s
  | .clkSync => ∃ v, clkSync p s = .ok (v, u)
  | .hopEval now => ∃ c changed, hopEval p now s = .ok (c, changed, u)
  | .slotTurn _ => u = s
  | .stPush _ => ∃ code, u = stPush code s
  | .stRead => u = s
  | .stContact now => u = contact now s
  | .stIsconn => u = s
  | .stTochk now => u = (stTochk p now s).2
  | .txnOpen now => u = txnOpen now s
  | .txnClose => u = txnClose s
  | .toTxn _ => u = s
  | .toSup _ => u = s
  | .evPost event => ∃ e, eventOfCode event = some e ∧ u = (evPost p e s).2
  | .evStep event now => ∃ e, eventOfCode event = some e ∧ evStep p e now s = .ok u
  | .loopTick now => loopTick p now s = .ok u

/-- Every answer of an operation is its effect with the results on the ports. -/
theorem runAt_effect {p : Params} {i : Instr} {s t : State} (h : runAt p i s = .ok t) :
    ∃ u r, Effect p s u i ∧ t = u.withResult r := by
  cases i with
  | init => cases h; exact ⟨_, _, rfl, rfl⟩
  | cfgSet field value =>
    change runCfgSet p field value s = _ at h
    unfold runCfgSet at h
    split at h
    · cases h
    · rename_i c hc; cases h; exact ⟨_, _, ⟨c, hc, rfl⟩, rfl⟩
  | statsGet now rssi => cases h; exact ⟨_, _, rfl, rfl⟩
  | ppmSet ch sample =>
    change runPpmSet p ch sample s = _ at h
    unfold runPpmSet at h
    split at h
    · rename_i hc; cases h; exact ⟨_, _, ⟨hc, rfl⟩, rfl⟩
    · cases h
  | ppmGet ch =>
    change runPpmGet p ch s = _ at h
    unfold runPpmGet at h
    split at h
    · cases h; exact ⟨_, _, rfl, rfl⟩
    · cases h
  | streamTx streamId data =>
    change runStreamTx p streamId data s = _ at h
    unfold runStreamTx at h
    split at h
    · cases h
    · rename_i id hid; cases h; exact ⟨_, _, ⟨id, hid, rfl⟩, rfl⟩
  | ppmEnc sample => cases h; exact ⟨_, _, rfl, rfl⟩
  | ppmDec code => cases h; exact ⟨_, _, rfl, rfl⟩
  | ppmPack withCsum => cases h; exact ⟨_, _, rfl, rfl⟩
  | ppmUnpack bytes withCsum =>
    change runPpmUnpack p bytes withCsum s = _ at h
    unfold runPpmUnpack at h
    split at h
    · cases h
    · cases h; exact ⟨_, _, ppmUnpack_snd p bytes withCsum s, rfl⟩
  | csum bytes =>
    change runCsum bytes s = _ at h
    unfold runCsum at h
    split at h
    · cases h
    · cases h; exact ⟨_, _, rfl, rfl⟩
  | frameBuild =>
    obtain ⟨⟨f, u⟩, hu, h⟩ := bind_eq_ok.1 h
    cases h; exact ⟨u, _, ⟨f, hu⟩, rfl⟩
  | frameParse len =>
    obtain ⟨⟨f, u⟩, hu, h⟩ := bind_eq_ok.1 h
    cases h; exact ⟨u, _, ⟨f, hu⟩, rfl⟩
  | bufReset => cases h; exact ⟨_, _, rfl, rfl⟩
  | bufPush data =>
    change runBufPush data s = _ at h
    unfold runBufPush at h
    split at h
    · cases h
    · simp only [bind_eq_ok, need_eq_ok, pure_eq_ok] at h
      obtain ⟨m, hm, h⟩ := h
      cases h; exact ⟨_, _, ⟨m, hm, rfl⟩, rfl⟩
  | bufPop n => cases h; exact ⟨_, _, rfl, rfl⟩
  | hdrBuild destId len => cases h; exact ⟨_, _, rfl, rfl⟩
  | hdrParse bytes =>
    change runHdrParse bytes s = _ at h
    unfold runHdrParse at h
    split at h
    · cases h; exact ⟨_, _, rfl, rfl⟩
    · cases h
  | chGen =>
    change runChGen p s = _ at h
    unfold runChGen at h
    simp only [bind_eq_ok, need_eq_ok, pure_eq_ok] at h
    obtain ⟨t', ht, h⟩ := h
    cases h; exact ⟨_, _, ⟨t', ht, rfl⟩, rfl⟩
  | chAt n =>
    change runChAt n s = _ at h
    unfold runChAt at h
    split at h
    · cases h
    · cases h; exact ⟨_, _, rfl, rfl⟩
  | clkTime now =>
    obtain ⟨v, hv, h⟩ := bind_eq_ok.1 h
    cases h; exact ⟨s, _, rfl, rfl⟩
  | clkSync =>
    obtain ⟨⟨v, u⟩, hu, h⟩ := bind_eq_ok.1 h
    cases h; exact ⟨u, _, ⟨v, hu⟩, rfl⟩
  | hopEval now =>
    obtain ⟨⟨c, ch, u⟩, hu, h⟩ := bind_eq_ok.1 h
    cases h; exact ⟨u, _, ⟨c, ch, hu⟩, rfl⟩
  | slotTurn now =>
    obtain ⟨v, hv, h⟩ := bind_eq_ok.1 h
    cases h; exact ⟨s, _, rfl, rfl⟩
  | stPush outcome =>
    change runStPush outcome s = _ at h
    unfold runStPush at h
    split at h
    · rename_i code _; cases h; exact ⟨_, _, ⟨code, rfl⟩, rfl⟩
    · cases h
  | stRead => cases h; exact ⟨_, _, rfl, rfl⟩
  | stContact now => cases h; exact ⟨_, _, rfl, rfl⟩
  | stIsconn => cases h; exact ⟨_, _, rfl, rfl⟩
  | stTochk now => cases h; exact ⟨_, _, rfl, rfl⟩
  | txnOpen now => cases h; exact ⟨_, _, rfl, rfl⟩
  | txnClose => cases h; exact ⟨_, _, rfl, rfl⟩
  | toTxn now =>
    obtain ⟨v, hv, h⟩ := bind_eq_ok.1 h
    cases h; exact ⟨s, _, rfl, rfl⟩
  | toSup now => cases h; exact ⟨_, _, rfl, rfl⟩
  | evPost event =>
    change runEvPost p event s = _ at h
    unfold runEvPost at h
    split at h
    · rename_i e he; cases h; exact ⟨_, _, ⟨e, he, rfl⟩, rfl⟩
    · cases h
  | evStep event now =>
    change runEvStep p event now s = _ at h
    unfold runEvStep at h
    split at h
    · rename_i e he
      obtain ⟨u, hu, h⟩ := bind_eq_ok.1 h
      cases h; exact ⟨u, _, ⟨e, he, hu⟩, rfl⟩
    · cases h
  | loopTick now =>
    obtain ⟨u, hu, h⟩ := bind_eq_ok.1 h
    cases h; exact ⟨u, _, hu, rfl⟩

/-- A next state is an idle step's, or the effect of the operation taken, with its results on the ports. -/
theorem step_effect {s t : State} (h : step s = .next t) :
    t = s ∨ ∃ r rest i u res, s.requests = r :: rest ∧ decode r = .ok i ∧
      Effect Config.params { s with requests := rest } u i ∧ t = u.withResult res := by
  rcases step_eq_next h with rfl | ⟨r, rest, i, hr, hd, h⟩
  · exact .inl rfl
  · obtain ⟨u, res, hu, ht⟩ := runAt_effect h
    exact .inr ⟨r, rest, i, u, res, hr, hd, hu, ht⟩

/-! ### The callers' pieces -/

/-- `CFG.SET` writes the table and its index only, when it regenerates. -/
theorem regenerate_frame (p : Params) (s : State) : regenerate p s = { s with
    channelTable := (regenerate p s).channelTable, channelCount := (regenerate p s).channelCount
    channelIndex := (regenerate p s).channelIndex } := by
  unfold regenerate
  split <;> rfl

/-- The re-`Initialize` writes the event queue and its signal only. -/
theorem postReinit_frame (p : Params) (s : State) : postReinit p s = { s with
    eventQueue := (postReinit p s).eventQueue, wakeCount := (postReinit p s).wakeCount } := by
  unfold postReinit evPost
  split
  · rfl
  · split <;> rfl

/-- A frame in the buffer with the toggle, the buffer, the destination and the queues written; nothing else. -/
theorem frameBuild_frame {p : Params} {s t : State} {f : BuiltFrame} (h : frameBuild p s = .ok (f, t)) : t = { s with
    streamToggle := t.streamToggle, pktBuf := t.pktBuf, pktLen := t.pktLen, pktRd := 0, txDest := t.txDest
    txQueuePrimary := t.txQueuePrimary, txQueueAux := t.txQueueAux } := by
  obtain ⟨a, b, c, -, -, -, h | h⟩ := frameBuild_cases h
  · rw [h.2.2.2]; rfl
  · rw [h.2.2.2]; cases streamOfToggle s.streamToggle <;> rfl

end Sys2Proof.Machine
end

