-- ==== Sys2Proof/Laws/Scheduler.lean ====
section
/-! SUPPORT. Logical time, the channel table's enumeration, keyed stream and shuffle. -/

namespace Sys2Proof.Machine

/-! ### Time -/

theorem elapsed_eq (now past : Tick) : elapsed now past = (now.toNat + 4294967296 - past.toNat) % 4294967296 := by
  have := past.isLt
  simp only [elapsed, BitVec.toNat_sub]
  congr 1
  omega

theorem logicalTime_toNat (role : Role) (skew : BitVec 32) (now : Tick) :
    (logicalTime role skew now).toNat =
      if role = .coordinator then now.toNat else (now.toNat + skew.toNat) % 4294967296 := by
  cases role <;> simp [logicalTime]

theorem phase_eq (t : Tick) : (t - 1#32).toNat = (t.toNat + 4294967295) % 4294967296 := by
  simp only [BitVec.toNat_sub, BitVec.toNat_ofNat]
  congr 1
  omega

theorem period_pos (period : Period) : 0 < period.ms.toNat := by
  have := period.ms_ne
  rcases Nat.eq_zero_or_pos period.ms.toNat with h | h
  · exact absurd (BitVec.eq_of_toNat_eq h) this
  · exact h

theorem channelAt_eq (s : State) (i : Fin 32) : channelAt s i = tableEntry s i.val := by
  simp [channelAt, tableEntry]

/-! ### Enumeration (rule R150 step 1) -/

/-- The enumeration is the channels 0 to 250 of the spaced, guarded range, in rising order. -/
theorem enumerateChannels_eq (p : Params) (d : Word32) (lo hi : BitVec 8) :
    enumerateChannels p d lo hi = (List.range 251).filter fun c =>
      lo.toNat + p.guardOf d ≤ c ∧ c + p.guardOf d ≤ hi.toNat ∧ (c - (lo.toNat + p.guardOf d)) % p.spacingOf d = 0 := by
  have hsp := p.spacing_pos d
  apply List.Perm.eq_of_pairwise (le := fun a b : Nat => a < b)
  · intro a b _ _ h1 h2; omega
  · unfold enumerateChannels
    apply List.Pairwise.filter
    rw [List.pairwise_map]
    refine List.Pairwise.imp ?_ (List.pairwise_lt_range)
    intro a b hab
    have := Nat.mul_lt_mul_of_pos_right hab (by omega : 0 < p.spacingOf d)
    omega
  · exact List.Pairwise.filter _ List.pairwise_lt_range
  · rw [List.perm_ext_iff_of_nodup]
    · intro c
      unfold enumerateChannels
      simp only [List.mem_filter, List.mem_map, List.mem_range, chMax, Bool.and_eq_true, decide_eq_true_eq]
      constructor
      · rintro ⟨⟨k, -, rfl⟩, h1, h2⟩
        have h2 := of_decide_eq_true h2
        refine ⟨by omega, by omega, h1, ?_⟩
        rw [Nat.add_sub_cancel_left]
        exact Nat.mul_mod_left ..
      · rintro ⟨h1, h2, h3, h4⟩
        refine ⟨⟨(c - (lo.toNat + p.guardOf d)) / p.spacingOf d, ?_, ?_⟩, h3, decide_eq_true (by omega)⟩
        · have := Nat.div_le_self (c - (lo.toNat + p.guardOf d)) (p.spacingOf d)
          omega
        · rw [Nat.div_mul_cancel (Nat.dvd_of_mod_eq_zero h4)]
          omega
    · unfold enumerateChannels
      apply List.Nodup.filter
      apply List.Nodup.map_on
      · intro a _ b _ hab
        have : a * p.spacingOf d = b * p.spacingOf d := by omega
        exact Nat.eq_of_mul_eq_mul_right (by omega) this
      · exact List.nodup_range
    · exact List.nodup_range.filter _

/-! ### Keyed stream (rule R151) -/

/-- The stream after `m` bytes. -/
def streamAfter (p : Params) (cid : Word32) : Nat → KeyedStream
  | 0 => streamStart p
  | m + 1 => (streamNext p cid (streamAfter p cid m)).2

/-- Where the stream stands after `m` bytes, for `m` at least 1: the counter of the digest in use is one behind. -/
theorem streamAfter_eq (p : Params) (cid : Word32) (m : Nat) :
    streamAfter p cid (m + 1) =
      { ctr := BitVec.ofNat 32 (m / p.digestLen + 1), digest := p.keyedHash cid (BitVec.ofNat 32 (m / p.digestLen)),
        pos := m % p.digestLen + 1 } := by
  have hL := p.digestLen_pos
  induction m with
  | zero => simp [streamAfter, streamNext, streamStart, hashCounterInit, Nat.mod_eq_of_lt hL]
  | succ m ih =>
    rw [streamAfter, ih, streamNext]
    by_cases h : m % p.digestLen + 1 = p.digestLen
    · have h1 : (m + 1) % p.digestLen = 0 := by
        rw [Nat.add_mod]
        rcases Nat.lt_or_ge 1 p.digestLen with h2 | h2
        · rw [Nat.mod_eq_of_lt h2, h, Nat.mod_self]
        · have : p.digestLen = 1 := by omega
          rw [this]
          omega
      have h2 : (m + 1) / p.digestLen = m / p.digestLen + 1 := by
        rw [Nat.succ_div, if_pos (Nat.dvd_of_mod_eq_zero h1)]
      simp only [h, if_true, h1, h2]
      congr 1
      apply BitVec.eq_of_toNat_eq
      simp
    · have hlt := Nat.mod_lt m hL
      have h1 : (m + 1) % p.digestLen = m % p.digestLen + 1 := by
        rw [Nat.add_mod, Nat.mod_eq_of_lt (a := 1) (by omega), Nat.mod_eq_of_lt (by omega)]
      have h2 : (m + 1) / p.digestLen = m / p.digestLen := by
        rw [Nat.succ_div, if_neg (by intro hd; rw [Nat.mod_eq_zero_of_dvd hd] at h1; omega)]
        rfl
      simp only [if_neg h, h1, h2]

/-- Byte `m` of the stream. -/
theorem streamByte_eq (p : Params) (cid : Word32) (m : Nat) :
    (streamNext p cid (streamAfter p cid m)).1 =
      (p.keyedHash cid (BitVec.ofNat 32 (m / p.digestLen))).getD (m % p.digestLen) 0 := by
  have h := streamAfter_eq p cid m
  rw [streamAfter] at h
  generalize hx : streamNext p cid (streamAfter p cid m) = x at h
  have e1 : x.1 = x.2.digest.getD (x.2.pos - 1) 0 := by
    rw [← hx]
    unfold streamNext
    simp
  rw [e1, h]
  simp

theorem draws_eq (p : Params) (cid : Word32) (n m : Nat) :
    draws p cid n (streamAfter p cid m) = (List.range n).map fun i =>
      (p.keyedHash cid (BitVec.ofNat 32 ((m + i) / p.digestLen))).getD ((m + i) % p.digestLen) 0 := by
  induction n generalizing m with
  | zero => rfl
  | succ n ih =>
    rw [draws, List.range_succ_eq_map, List.map_cons, List.map_map, streamByte_eq, ← streamAfter, ih]
    congr 1
    apply List.map_congr_left
    intro i _
    simp only [Function.comp_apply, Nat.succ_eq_add_one, show m + 1 + i = m + (i + 1) by omega]

/-! ### Shuffle (rule R150 steps 2 and 3) -/

@[simp] theorem swapAt_length (w : List Nat) (i r : Nat) : (swapAt w i r).length = w.length := by simp [swapAt]

/-- A swap of two places permutes. -/
theorem swapAt_perm (w : List Nat) {i r : Nat} (hi : i < w.length) (hr : r < w.length) : (swapAt w i r).Perm w := by
  unfold swapAt
  rw [show w.getD r 0 = w[r] by simp [hr], show w.getD i 0 = w[i] by simp [hi]]
  exact List.set_set_perm hi hr

theorem shuffleFrom_perm (n : Nat) (rnds : List Byte) (i : Nat) (w : List Nat) (hw : w.length = n) (hi : i + rnds.length ≤ n) :
    (shuffleFrom n i rnds w).Perm w := by
  induction rnds generalizing i w with
  | nil => exact .refl _
  | cons b bs ih =>
    rw [List.length_cons] at hi
    have hr : b.toNat % (n - i) < n - i := Nat.mod_lt _ (by omega)
    exact (ih (i + 1) (swapAt w i (i + b.toNat % (n - i))) (by simp [hw]) (by omega)).trans
      (swapAt_perm w (by omega) (by omega))

/-- The shuffle as one pass over the indexes. -/
theorem shuffleFrom_eq_foldl (n : Nat) (rnds : List Byte) (i : Nat) (w : List Nat) :
    shuffleFrom n i rnds w = (List.range rnds.length).foldl
      (fun w k => swapAt w (i + k) (i + k + (rnds.getD k 0).toNat % (n - (i + k)))) w := by
  induction rnds generalizing i w with
  | nil => rfl
  | cons b bs ih =>
    rw [shuffleFrom, ih, List.length_cons, List.range_succ_eq_map, List.foldl_cons, List.foldl_map]
    congr 1
    funext v k
    rw [show i + Nat.succ k = i + 1 + k by omega]
    rfl

theorem draws_length (p : Params) (cid : Word32) (n : Nat) (g : KeyedStream) : (draws p cid n g).length = n := by
  induction n generalizing g with
  | zero => rfl
  | succ n ih => simp [draws, ih]

/-- The shuffled array is a rearrangement of the enumeration. -/
theorem generatedChannels_perm (p : Params) (t : TableInputs) :
    (generatedChannels p t).Perm (enumerateChannels p t.datarate t.minChannel t.maxChannel) := by
  unfold generatedChannels shuffledChannels
  exact shuffleFrom_perm _ _ _ _ rfl (by simp [draws_length])

theorem generatedChannels_nodup (p : Params) (t : TableInputs) : (generatedChannels p t).Nodup := by
  rw [(generatedChannels_perm p t).nodup_iff, enumerateChannels_eq]
  exact List.nodup_range.filter _

theorem mem_generatedChannels {p : Params} {t : TableInputs} {c : Nat} (h : c ∈ generatedChannels p t) :
    c ≤ 250 ∧ t.minChannel.toNat + p.guardOf t.datarate ≤ c ∧ c + p.guardOf t.datarate ≤ t.maxChannel.toNat ∧
      (c - (t.minChannel.toNat + p.guardOf t.datarate)) % p.spacingOf t.datarate = 0 := by
  rw [(generatedChannels_perm p t).mem_iff, enumerateChannels_eq, List.mem_filter] at h
  simp only [List.mem_range, decide_eq_true_eq] at h
  exact ⟨by omega, h.2⟩

theorem evenCount_le (n : Nat) : (evenCount n).val ≤ n := by
  simp only [evenCount, tableCap]
  omega

theorem evenCount_even (n : Nat) : (evenCount n).val % 2 = 0 := by
  simp only [evenCount, tableCap]
  omega

/-- A valid entry of a table just generated is a generated channel. -/
theorem chGen_entry (p : Params) (t : TableInputs) (s : State) (k : Nat) (h : k < (chGen p t s).channelCount.val) :
    (tableEntry (chGen p t s) k).toNat = (generatedChannels p t).getD k 0 ∧
      (generatedChannels p t).getD k 0 ∈ generatedChannels p t := by
  have hk : k < (evenCount (generatedChannels p t).length).val := h
  have hl : k < (generatedChannels p t).length := Nat.lt_of_lt_of_le hk (evenCount_le _)
  have hm : (generatedChannels p t).getD k 0 ∈ generatedChannels p t := by
    rw [show (generatedChannels p t).getD k 0 = (generatedChannels p t)[k] by simp [hl]]
    exact List.getElem_mem hl
  refine ⟨?_, hm⟩
  rw [chGen_table p t s k hk, BitVec.toNat_ofNat]
  have := (mem_generatedChannels hm).1
  exact Nat.mod_eq_of_lt (by omega)

theorem chGen_entry_above (p : Params) (t : TableInputs) (s : State) (k : Nat) (h : (chGen p t s).channelCount.val ≤ k) :
    tableEntry (chGen p t s) k = tableEntry s k := by
  have h' : ¬ k < (evenCount (generatedChannels p t).length).val := Nat.not_lt.2 h
  simp only [tableEntry, chGen, vecOf_toList_getD]
  by_cases h32 : k < 32
  · rw [if_pos h32, if_neg h']
  · rw [if_neg h32]
    simp only [List.getD_eq_getElem?_getD]
    rw [List.getElem?_eq_none (by simp; omega)]
    rfl

/-- A table just generated meets the table's invariant. -/
theorem chGen_inv (p : Params) (t : TableInputs) (s : State) : TableInv (chGen p t s) := by
  refine ⟨evenCount_even _, ?_, ?_, ?_⟩
  · show (0 : Nat) < _
    omega
  · intro j k hjk hk he
    have h1 := (chGen_entry p t s j (by omega)).1
    have h2 := (chGen_entry p t s k hk).1
    have hl : k < (generatedChannels p t).length := Nat.lt_of_lt_of_le hk (evenCount_le _)
    rw [he, h2] at h1
    have hn := generatedChannels_nodup p t
    rw [show (generatedChannels p t).getD k 0 = (generatedChannels p t)[k] by simp [hl],
      show (generatedChannels p t).getD j 0 = (generatedChannels p t)[j]'(by omega) by
        simp [show j < (generatedChannels p t).length by omega]] at h1
    have := (List.Nodup.getElem_inj_iff hn).1 h1
    omega
  · intro k hk
    rw [(chGen_entry p t s k hk).1]
    exact (mem_generatedChannels (chGen_entry p t s k hk).2).1

/-! ### The send turn -/

/-- With its three registers set `SLOT.TURN` is the slot test (rule R162). -/
theorem slotTurn_eq {now : Tick} {s : State} {oneWay : Bool} {role : Role} {period : Period} (h1 : s.cfg.oneWayLink = some oneWay)
    (h2 : s.cfg.role = some role) (h3 : s.cfg.packetPeriodMs = some period) :
    slotTurn now s = .ok (slotTest oneWay role period (logicalTime role s.clockSkewMs now)) := by
  unfold slotTurn
  rw [h1, h2, h3]
  cases oneWay <;> cases role <;> rfl

/-- A peer on a one-way link never has a turn, whatever the period (rule R162 corner case (c)). -/
theorem slotTurn_oneWay_peer {now : Tick} {s : State} (h1 : s.cfg.oneWayLink = some true) (h2 : s.cfg.role = some .peer) :
    slotTurn now s = .ok false := by
  unfold slotTurn
  rw [h1, h2]; rfl

end Sys2Proof.Machine
end

