-- ==== Sys2Proof/Laws/Sequencer.lean ====
section
/-! SUPPORT. What an event with its cascade can do to the state: an entry action takes a fault or is a chain of the single writes of
`Touch`, none of which moves the sequencer, and `EV.STEP` alternates moves and entry actions. An invariant that all of these keep
(`Kept`) is kept by `EV.STEP`, and with the queue's bookkeeping and the hop (`KeptInLoop`) by `LOOP.TICK`. -/

namespace Sys2Proof.Machine

/-- The single writes an entry action is made of (rules R220 to R224). -/
inductive Touch (p : Params) : State → State → Prop
  | emit (o : Output) (s : State) : Touch p s (emit o s)
  | answer (a : Answers) (n : Nat) (s : State) : Touch p s { s with answers := a, freeCount := n }
  | reset (s : State) : Touch p s (bufReset s)
  | close (s : State) : Touch p s (txnClose s)
  | opening (now : Tick) (s : State) : Touch p s (txnOpen now s)
  | outcome (c : OutcomeCode) (s : State) : Touch p s (stPush c s)
  | contact (now : Tick) (s : State) : Touch p s (contact now s)
  | sync (v : BitVec 32) (s t : State) : clkSync p s = .ok (v, t) → Touch p s t
  | samples (f : Nat → RxSample) (s : State) : Touch p s (setPpmRx p f s)
  | push (m : BitVec 8) (data : List Byte) (s : State) : s.cfg.maxPacketLen = some m → Touch p s (bufPush m data s).2
  | pop (n : BitVec 8) (s : State) : Touch p s (bufPop n s).2
  | build (f : BuiltFrame) (s t : State) : frameBuild p s = .ok (f, t) → Touch p s t
  | init (s : State) : Touch p s (initBlock s)

/-- A chain of single writes. -/
abbrev Touches (p : Params) : State → State → Prop := Relation.ReflTransGen (Touch p)

namespace Touches

variable {p : Params} {s t : State}

theorem one (h : Touch p s t) : Touches p s t := .single h

/-- What every single write keeps, a chain keeps. -/
theorem keeps {P : State → Prop} (hP : ∀ s t, Touch p s t → P s → P t) (h : Touches p s t) (hs : P s) : P t := by
  induction h with
  | refl => exact hs
  | tail _ h ih => exact hP _ _ h ih

end Touches

/-- No single write moves the sequencer. -/
theorem touch_fsmState {p : Params} {s t : State} (h : Touch p s t) : t.fsmState = s.fsmState := by
  cases h
  case sync v h => rcases clkSync_cases h with h | h <;> rw [h.2.1]
  case push m d h => unfold bufPush; split <;> rfl
  case build f h =>
    obtain ⟨a, b, c, -, -, -, h | h⟩ := frameBuild_cases h
    · rw [h.2.2.2]; rfl
    · rw [h.2.2.2]; cases streamOfToggle s.streamToggle <;> rfl
  all_goals rfl

/-! ### The pieces of the entry actions -/

variable {p : Params} {s t : State} {now : Tick}

theorem takeAnswer_touches {α : Type} (l : List α) (free : Nat → α) (keep : List α → Answers) (s : State) :
    Touches p s (takeAnswer l free keep s).2 := by
  obtain ⟨a, n, h⟩ := takeAnswer_snd l free keep s
  rw [h]
  exact .one (.answer a n s)

theorem callResetAndIdentify_touches (s : State) : Touches p s (callResetAndIdentify s).2 :=
  (Touches.one (.emit _ s)).trans (takeAnswer_touches ..)

theorem callReadStatus_touches (s : State) : Touches p s (callReadStatus s).2 :=
  (Touches.one (.emit _ s)).trans (takeAnswer_touches ..)

theorem callPollRx_touches (s : State) : Touches p s (callPollRx s).2 :=
  (Touches.one (.emit _ s)).trans (takeAnswer_touches ..)

theorem callPollTx_touches (s : State) : Touches p s (callPollTx s).2 :=
  (Touches.one (.emit _ s)).trans (takeAnswer_touches ..)

theorem callArmTransmitter_touches (d : Word32) (s : State) : Touches p s (callArmTransmitter d s) := by
  unfold callArmTransmitter
  exact ((takeAnswer_touches _ _ _ s).tail (.pop _ _)).tail (.emit _ _)

theorem frameParse_touches {len : BitVec 8} {f : ParsedFrame} (h : frameParse p len s = .ok (f, t)) : Touches p s t := by
  rcases frameParse_snd h with rfl | ⟨g, rfl⟩
  · exact .refl
  · exact .one (.samples g s)

theorem rxFail_touches (s : State) : Touches p s (rxFail s) :=
  ((Touches.one (.outcome _ s)).tail (.close _)).tail (.reset _)

theorem rxValid_touches (h : rxValid p now s = .ok t) : Touches p s t := by
  unfold rxValid at h
  simp only [bind_eq_ok, need_eq_ok] at h
  obtain ⟨role, -, h⟩ := h
  split at h
  · simp only [bind_eq_ok, pure_eq_ok] at h
    obtain ⟨⟨v, u⟩, hu, h⟩ := h
    cases h
    exact (Touches.one (.contact now s)).tail (.sync v _ _ hu)
  · cases h; exact .one (.contact now s)

theorem rxDone_touches {len : BitVec 8} {f : ParsedFrame} (h : rxDone p now len s = .ok (f, t)) : Touches p s t := by
  unfold rxDone at h
  obtain ⟨⟨g, u⟩, hu, h⟩ := bind_eq_ok.1 h
  have h1 := (frameParse_touches hu).tail (.outcome g.outcome u)
  have close : ∀ v : State, Touches p v (bufReset (txnClose v)) := fun v => (Touches.one (.close v)).tail (.reset _)
  simp only at h
  split at h
  · simp only [bind_eq_ok, pure_eq_ok] at h
    obtain ⟨v, hv, h⟩ := h
    cases h
    exact (h1.trans (rxValid_touches hv)).trans (close v)
  · simp only [ok_bind, pure_eq_ok] at h
    cases h
    exact h1.trans (close _)

theorem deliver_touches (f : ParsedFrame) (s : State) : Touches p s (deliver f s) := by
  unfold deliver
  split
  · split
    · exact .refl
    · exact .one (.emit _ s)
  · exact .refl

theorem pullBytes_touches {bytes : List Byte} {b : Bool} (h : pullBytes bytes s = .ok (b, t)) : Touches p s t := by
  unfold pullBytes at h
  split at h
  · cases h; exact .refl
  · simp only [bind_eq_ok, need_eq_ok, pure_eq_ok] at h
    obtain ⟨m, hm, h⟩ := h
    have h2 : (bufPush m bytes s).2 = t := congrArg Prod.snd (Except.ok.inj h)
    rw [← h2]
    exact .one (.push m bytes s hm)

theorem onPollRx_touches {a : RxAnswer} {e : Option Event} (h : onPollRx p now a s = .ok (e, t)) : Touches p s t := by
  cases a with
  | moreDataPending bytes =>
    simp only [onPollRx, bind_eq_ok, pure_eq_ok] at h
    obtain ⟨⟨b, u⟩, hu, h⟩ := h
    have h1 := pullBytes_touches (p := p) hu
    cases b
    · cases h; exact h1.trans (rxFail_touches u)
    · cases h; exact h1
  | packetComplete len bytes =>
    simp only [onPollRx, bind_eq_ok, pure_eq_ok] at h
    obtain ⟨⟨b, u⟩, hu, h⟩ := h
    have h1 := pullBytes_touches (p := p) hu
    cases b
    · cases h; exact h1.trans (rxFail_touches u)
    · simp only [if_true, bind_eq_ok] at h
      obtain ⟨⟨f, v⟩, hv, h⟩ := h
      have h2 := h1.trans (rxDone_touches hv)
      split at h
      · cases h; exact h2.trans (deliver_touches f v)
      · cases h; exact h2
  | fail => cases h; exact rxFail_touches s

/-! ### The entry actions -/

theorem enterInitializing_touches {e : Option Event} (h : enterInitializing s = .ok (e, t)) : Touches p s t := by
  have h1 : Touches p s (callResetAndIdentify (initBlock s)).2 :=
    (Touches.one (.init s)).trans (callResetAndIdentify_touches _)
  unfold enterInitializing at h
  split at h
  rename_i b u hu
  rw [hu] at h1
  split at h
  · simp only [bind_eq_ok, pure_eq_ok] at h
    obtain ⟨d, -, q, -, r, -, h⟩ := h
    cases h
    exact h1.tail (.emit _ _)
  · cases h; exact h1

theorem enterRxMode_touches (s : State) : Touches p s (enterRxMode s).2 :=
  ((Touches.one (.close s)).tail (.reset _)).tail (.emit _ _)

theorem enterRxData_touches {e : Option Event} (h : enterRxData p now s = .ok (e, t)) : Touches p s t := by
  have h1 : Touches p s (callReadStatus s).2 := callReadStatus_touches s
  unfold enterRxData at h
  split at h
  rename_i b u hu
  rw [hu] at h1
  split at h
  · have h2 : Touches p u (if u.txnOpen then u else txnOpen now u) := by
      cases u.txnOpen
      · exact .one (.opening now u)
      · exact .refl
    generalize (if u.txnOpen then u else txnOpen now u) = w at h h2
    have h3 := callPollRx_touches (p := p) w
    exact ((h1.trans h2).trans h3).trans (onPollRx_touches h)
  · cases h; exact h1

theorem enterTxStart_touches {e : Option Event} (h : enterTxStart p now s = .ok (e, t)) : Touches p s t := by
  unfold enterTxStart at h
  simp only [bind_eq_ok] at h
  obtain ⟨turn, -, h⟩ := h
  split at h
  · simp only [bind_eq_ok] at h
    obtain ⟨⟨f, u⟩, hu, role, -, h⟩ := h
    have h1 : Touches p s u := .one (.build f s u hu)
    split at h
    · cases h; exact h1.tail (.reset u)
    · cases h; exact (h1.tail (.opening now u)).trans (callArmTransmitter_touches _ _)
  · cases h; exact .refl

theorem onPollTx_touches (a : TxAnswer) (s : State) : Touches p s (onPollTx a s).2 := by
  cases a with
  | needsMoreData n => exact (Touches.one (.pop n s)).tail (.emit _ _)
  | sent => exact (Touches.one (.close s)).tail (.reset _)
  | fail => exact (Touches.one (.close s)).tail (.reset _)

theorem enterTxData_touches (s : State) : Touches p s (enterTxData s).2 := by
  have h1 : Touches p s (callReadStatus s).2 := callReadStatus_touches s
  unfold enterTxData
  split
  rename_i b u hu
  rw [hu] at h1
  split
  · have h2 := callPollTx_touches (p := p) u
    split
    rename_i a v hv
    rw [hv] at h2
    exact (h1.trans h2).trans (onPollTx_touches a v)
  · exact h1

/-- The fault a state stands for (rule R262). -/
def faultOf : FsmState → Option SequencerFault
  | .timeout => some .timeout
  | .error => some .error
  | .fatalError => some .fatalError
  | .uninitialized | .initializing | .rxMode | .rxData | .txStart | .txData => none

/-- An entry action takes its state's fault, or is a chain of single writes. -/
theorem entryAction_cases {st : FsmState} {e : Option Event} (h : entryAction p now st s = .ok (e, t)) :
    (faultOf st = none ∧ Touches p s t) ∨ ∃ f, faultOf st = some f ∧ e = leaveFault f ∧ t = takeFault f s := by
  cases st with
  | uninitialized => cases h; exact .inl ⟨rfl, .refl⟩
  | initializing => exact .inl ⟨rfl, enterInitializing_touches h⟩
  | rxMode => cases h; exact .inl ⟨rfl, enterRxMode_touches s⟩
  | rxData => exact .inl ⟨rfl, enterRxData_touches h⟩
  | txStart => exact .inl ⟨rfl, enterTxStart_touches h⟩
  | txData =>
    have h2 : (enterTxData s).2 = t := congrArg Prod.snd (Except.ok.inj h)
    rw [← h2]; exact .inl ⟨rfl, enterTxData_touches s⟩
  | timeout => cases h; exact .inr ⟨_, rfl, rfl, rfl⟩
  | error => cases h; exact .inr ⟨_, rfl, rfl, rfl⟩
  | fatalError => cases h; exact .inr ⟨_, rfl, rfl, rfl⟩

theorem entryAction_fsmState {st : FsmState} {e : Option Event} (h : entryAction p now st s = .ok (e, t)) :
    t.fsmState = s.fsmState := by
  rcases entryAction_cases h with ⟨-, h⟩ | ⟨f, -, -, rfl⟩
  · exact h.keeps (P := fun u => u.fsmState = s.fsmState) (fun _ _ hu hs => (touch_fsmState hu).trans hs) rfl
  · cases f <;> rfl

/-- The events an entry action may return (rules R220 to R227). -/
def returned : FsmState → List Event
  | .uninitialized | .rxMode | .fatalError => []
  | .initializing => [.initialized, .fatalError]
  | .rxData => [.error, .rxMode, .rxComplete]
  | .txStart => [.rxMode]
  | .txData => [.error, .rxComplete, .rxMode]
  | .timeout => [.rxMode]
  | .error => [.initializeLink]

theorem onPollRx_next {a : RxAnswer} {e : Event} (h : onPollRx p now a s = .ok (some e, t)) : e = .rxMode ∨ e = .rxComplete := by
  cases a with
  | moreDataPending bytes =>
    simp only [onPollRx, bind_eq_ok, pure_eq_ok] at h
    obtain ⟨⟨b, u⟩, -, h⟩ := h
    cases b
    · cases h; exact .inl rfl
    · cases h
  | packetComplete len bytes =>
    simp only [onPollRx, bind_eq_ok, pure_eq_ok] at h
    obtain ⟨⟨b, u⟩, -, h⟩ := h
    cases b
    · cases h; exact .inl rfl
    · simp only [if_true, bind_eq_ok] at h
      obtain ⟨⟨f, v⟩, -, h⟩ := h
      split at h
      · cases h; exact .inr rfl
      · cases h; exact .inl rfl
  | fail => cases h; exact .inl rfl

theorem entryAction_next {st : FsmState} {e : Event} (h : entryAction p now st s = .ok (some e, t)) : e ∈ returned st := by
  cases st with
  | uninitialized => cases h
  | initializing =>
    simp only [entryAction, enterInitializing] at h
    split at h
    · simp only [bind_eq_ok, pure_eq_ok] at h
      obtain ⟨d, -, q, -, r, -, h⟩ := h
      cases h; exact List.mem_cons_self
    · cases h; exact List.mem_cons_of_mem _ List.mem_cons_self
  | rxMode => cases h
  | rxData =>
    simp only [entryAction, enterRxData] at h
    split at h
    · rcases onPollRx_next h with rfl | rfl <;> simp [returned]
    · cases h; simp [returned]
  | txStart =>
    simp only [entryAction, enterTxStart, bind_eq_ok] at h
    obtain ⟨turn, -, h⟩ := h
    split at h
    · simp only [bind_eq_ok] at h
      obtain ⟨⟨f, u⟩, -, role, -, h⟩ := h
      split at h
      · cases h; exact List.mem_cons_self
      · cases h
    · cases h; exact List.mem_cons_self
  | txData =>
    have h2 : (enterTxData s).1 = some e := congrArg Prod.fst (Except.ok.inj h)
    simp only [enterTxData] at h2
    split at h2
    · generalize (callPollTx (callReadStatus s).2).1 = a at h2
      cases a with
      | needsMoreData n => cases h2
      | sent => cases h2; simp [returned]
      | fail => cases h2; simp [returned]
    · cases h2; simp [returned]
  | timeout => cases h; exact List.mem_cons_self
  | error => cases h; exact List.mem_cons_self
  | fatalError => cases h

/-! ### Cascades and the loop -/

theorem cascade_none {n : Nat} {e : Event} (h : transition s.fsmState e = none) : cascade p now n e s = .ok s := by
  cases n with
  | zero => rfl
  | succ n => unfold cascade; rw [h]

/-- One round of rule R213: the move, the entry action, then the event it returns. -/
theorem cascade_succ {n : Nat} {e : Event} {st : FsmState} (h : transition s.fsmState e = some st) :
    cascade p now (n + 1) e s = (entryAction p now st { s with fsmState := st } >>= fun r =>
      match r.1 with
      | none => .ok r.2
      | some e' => cascade p now n e' r.2) := by
  conv => lhs; unfold cascade; rw [h]
  rfl

theorem cascade_succ_eq_ok {n : Nat} {e : Event} {st : FsmState} (h : transition s.fsmState e = some st) :
    cascade p now (n + 1) e s = .ok t ↔
      ∃ next u, entryAction p now st { s with fsmState := st } = .ok (next, u) ∧
        match next with
        | none => t = u
        | some e' => cascade p now n e' u = .ok t := by
  rw [cascade_succ h, bind_eq_ok]
  constructor
  · rintro ⟨⟨next, u⟩, hu, ht⟩
    refine ⟨next, u, hu, ?_⟩
    cases next with
    | none => cases ht; rfl
    | some e' => exact ht
  · rintro ⟨next, u, hu, ht⟩
    refine ⟨(next, u), hu, ?_⟩
    cases next with
    | none => rw [ht]
    | some e' => exact ht

/-- An invariant that single writes, fault entries and moves keep. -/
structure Kept (p : Params) (P : State → Prop) : Prop where
  touch : ∀ s t, Touch p s t → P s → P t
  fault : ∀ s f, P s → P (takeFault f s)
  move : ∀ (s : State) st, P s → P { s with fsmState := st }

/-- One that the queue's bookkeeping and the hop keep too. -/
structure KeptInLoop (p : Params) (P : State → Prop) : Prop extends Kept p P where
  queue : ∀ (s : State) q w l, P s → P { s with eventQueue := q, wakeCount := w, lastEventTimestamp := l }
  hop : ∀ (s t : State) now c changed, hopEval p now s = .ok (c, changed, t) → P s → P t

variable {P : State → Prop}

theorem entryAction_keeps (k : Kept p P) {st : FsmState} {e : Option Event} (h : entryAction p now st s = .ok (e, t))
    (hs : P s) : P t := by
  rcases entryAction_cases h with ⟨-, h⟩ | ⟨f, -, -, rfl⟩
  · exact h.keeps k.touch hs
  · exact k.fault s f hs

theorem cascade_keeps (k : Kept p P) {n : Nat} {e : Event} (h : cascade p now n e s = .ok t) (hs : P s) : P t := by
  induction n generalizing e s with
  | zero => cases h; exact hs
  | succ n ih =>
    cases ht : transition s.fsmState e with
    | none => rw [cascade_none ht] at h; cases h; exact hs
    | some st =>
      obtain ⟨next, u, hu, h⟩ := (cascade_succ_eq_ok ht).1 h
      have h1 := entryAction_keeps k hu (k.move s st hs)
      cases next with
      | none => rw [h]; exact h1
      | some e' => exact ih h h1

/-- An event with its cascade keeps the invariant (rule R213). -/
theorem evStep_keeps (k : Kept p P) {e : Event} (h : evStep p e now s = .ok t) (hs : P s) : P t := cascade_keeps k h hs

theorem drain_keeps (k : KeptInLoop p P) {es : List Event} (h : drain p now es s = .ok t) (hs : P s) : P t := by
  induction es generalizing s with
  | nil => cases h; exact hs
  | cons e es ih =>
    unfold drain at h
    have h1 : P { s with eventQueue := es, lastEventTimestamp := now } := k.queue s es s.wakeCount now hs
    simp only at h
    split at h
    · exact ih h h1
    · simp only [bind_eq_ok] at h
      obtain ⟨u, hu, h⟩ := h
      exact ih h (evStep_keeps k.toKept hu h1)

/-- The driving loop keeps the invariant (rule R216). -/
theorem loopTick_keeps (k : KeptInLoop p P) (h : loopTick p now s = .ok t) (hs : P s) : P t := by
  have step := fun {e : Event} {x y : State} (hx : evStep p e now x = .ok y) => evStep_keeps k.toKept hx
  unfold loopTick at h
  simp only [bind_eq_ok] at h
  obtain ⟨u, hu, h⟩ := h
  have h1 : P u := by
    unfold tickEvents at hu
    split at hu
    · exact drain_keeps k hu (k.queue s s.eventQueue 0 s.lastEventTimestamp hs)
    · split at hu
      · exact step hu (k.queue s [] s.wakeCount now hs)
      · cases hu; exact hs
  split at h
  · simp only [bind_eq_ok] at h
    obtain ⟨v, hv, w, hw, h⟩ := h
    have h2 : P v := by
      unfold tickHop at hv
      simp only [bind_eq_ok] at hv
      obtain ⟨⟨c, ch, x⟩, hx, hv⟩ := hv
      have hx' := k.hop u x now c ch hx h1
      simp only at hv
      split at hv
      · exact step hv (k.touch _ _ (.emit _ x) hx')
      · cases hv; exact hx'
    have h3 : P w := by
      unfold tickTxn at hw
      simp only [bind_eq_ok] at hw
      obtain ⟨b, -, hw⟩ := hw
      split at hw
      · exact step hw h2
      · cases hw; exact h2
    unfold tickTurn at h
    split at h
    · simp only [bind_eq_ok] at h
      obtain ⟨b, -, h⟩ := h
      split at h
      · exact step h h3
      · cases h; exact h3
    · cases h; exact h3
  · cases h; exact h1

/-! ### What each piece is, and what an event leaves alone -/

/-- Taking the oldest event of the queue: it is removed, the supervisor's time refreshed, and the event processed or discarded. -/
theorem drain_cons {e : Event} {es : List Event} : drain p now (e :: es) s =
    ((if discarded e s.fsmState then .ok { s with eventQueue := es, lastEventTimestamp := now }
      else evStep p e now { s with eventQueue := es, lastEventTimestamp := now }) >>= fun u => drain p now es u) := by
  conv => lhs; unfold drain
  simp only
  split <;> rfl

/-- On a signal step 1 is the drain (rule R216). -/
theorem tickEvents_signal (h : 0 < s.wakeCount) : tickEvents p now s = drain p now s.eventQueue { s with wakeCount := 0 } :=
  if_pos h

/-- With no signal and no expiry steps 1 and 2 do nothing (rule R216). -/
theorem tickEvents_idle (h : s.wakeCount = 0) (ht : toSup p now s = false) : tickEvents p now s = .ok s := by
  rw [tickEvents, if_neg (by omega), ht]; rfl

/-- Two ticks whose steps 1 and 2 end alike are alike. -/
theorem loopTick_congr {s' : State} (h : tickEvents p now s = tickEvents p now s') : loopTick p now s = loopTick p now s' := by
  unfold loopTick; rw [h]

theorem exec_evStep (e : Event) (now : Tick) (s : State) :
    exec (.evStep (eventCode e) now) s = finish (evStep Config.params e now s >>= fun t => .ok (t.withResult .none)) := by
  cases e <;> rfl

theorem exec_loopTick (now : Tick) (s : State) :
    exec (.loopTick now) s = finish (loopTick Config.params now s >>= fun t => .ok (t.withResult .none)) := rfl

/-- An event with its cascade leaves the event queue, the configuration, the channel table, the samples to send, the requests and the
result ports alone. -/
theorem evStep_frame {e : Event} (h : evStep p e now s = .ok t) :
    t.eventQueue = s.eventQueue ∧ t.wakeCount = s.wakeCount ∧ t.lastEventTimestamp = s.lastEventTimestamp ∧ t.cfg = s.cfg ∧
    t.channelTable = s.channelTable ∧ t.channelCount = s.channelCount ∧ t.channelIndex = s.channelIndex ∧ t.ppmTx = s.ppmTx ∧
    t.requests = s.requests ∧ t.result = s.result := by
  refine evStep_keeps (P := fun u => u.eventQueue = s.eventQueue ∧ u.wakeCount = s.wakeCount ∧
    u.lastEventTimestamp = s.lastEventTimestamp ∧ u.cfg = s.cfg ∧ u.channelTable = s.channelTable ∧
    u.channelCount = s.channelCount ∧ u.channelIndex = s.channelIndex ∧ u.ppmTx = s.ppmTx ∧ u.requests = s.requests ∧
    u.result = s.result) ⟨fun u v h hu => ?_, fun u f hu => ?_, fun _ _ hu => hu⟩ h ⟨rfl, rfl, rfl, rfl, rfl, rfl, rfl, rfl, rfl, rfl⟩
  · cases h
    case sync w h => rcases clkSync_cases h with h | h <;> rw [h.2.1] <;> exact hu
    case push m d _ => unfold bufPush; split <;> exact hu
    case build f h =>
      obtain ⟨a, b, c, -, -, -, h | h⟩ := frameBuild_cases h
      · rw [h.2.2.2]; exact hu
      · rw [h.2.2.2]; cases streamOfToggle u.streamToggle <;> exact hu
    all_goals exact hu
  · cases f <;> exact hu

end Sys2Proof.Machine
end

