-- ==== Sys2Proof/Laws/Stats.lean ====
section
/-! SUPPORT. The outcome history read by code position, the counters and the score. -/

namespace Sys2Proof.Machine

/-- Position `k` of a word's codes in a history. -/
theorem codeAt_eq (h : Vector (BitVec 32) 4) (w j : Nat) (hw : w < 4) (hj : j < 16) :
    codeAt h (16 * w + j) = slotCode h[w] j := by
  have h1 : (16 * w + j) / 16 = w := by omega
  have h2 : (16 * w + j) % 16 = j := by omega
  simp only [codeAt, slotCode, h1, h2]
  simp [hw]

/-- The newest code of a pushed history. -/
theorem codeAt_push_zero (c : BitVec 2) (h : Vector (BitVec 32) 4) : codeAt (pushHistory c h) 0 = c := by
  show ((h[0] <<< 2) ||| c.setWidth 32).extractLsb' 0 2 = c
  ext i hi
  simp only [BitVec.getElem_extractLsb', BitVec.getLsbD_or, BitVec.getLsbD_shiftLeft, BitVec.getLsbD_setWidth]
  simp [hi, show i < 32 by omega]

theorem slot_shift (w v : BitVec 32) (j : Nat) (hj : j < 15) :
    slotCode ((w <<< 2) ||| (v.extractLsb' 30 2).setWidth 32) (j + 1) = slotCode w j := by
  unfold slotCode
  ext i hi
  simp only [BitVec.getElem_extractLsb', BitVec.getLsbD_or, BitVec.getLsbD_shiftLeft, BitVec.getLsbD_setWidth,
    BitVec.getLsbD_extractLsb']
  rw [show 2 * (j + 1) + i - 2 = 2 * j + i by omega]
  simp [show 2 * (j + 1) + i < 32 by omega, show ¬ 2 * (j + 1) + i < 2 by omega]

theorem slot_shift_new (w : BitVec 32) (c : BitVec 2) (j : Nat) (hj : j < 15) :
    slotCode ((w <<< 2) ||| c.setWidth 32) (j + 1) = slotCode w j := by
  unfold slotCode
  ext i hi
  simp only [BitVec.getElem_extractLsb', BitVec.getLsbD_or, BitVec.getLsbD_shiftLeft, BitVec.getLsbD_setWidth]
  rw [show 2 * (j + 1) + i - 2 = 2 * j + i by omega]
  simp [show 2 * (j + 1) + i < 32 by omega, show ¬ 2 * (j + 1) + i < 2 by omega, BitVec.getLsbD_of_ge c (2 * (j + 1) + i) (by omega)]

theorem slot_carry (w v : BitVec 32) :
    slotCode ((w <<< 2) ||| (v.extractLsb' 30 2).setWidth 32) 0 = slotCode v 15 := by
  unfold slotCode
  ext i hi
  simp only [BitVec.getElem_extractLsb', BitVec.getLsbD_or, BitVec.getLsbD_shiftLeft, BitVec.getLsbD_setWidth,
    BitVec.getLsbD_extractLsb']
  simp [hi, show i < 32 by omega]

/-- Every code of a pushed history moves up one position (rule R180). -/
theorem codeAt_push_succ (c : BitVec 2) (h : Vector (BitVec 32) 4) (k : Nat) (hk : k < 63) :
    codeAt (pushHistory c h) (k + 1) = codeAt h k := by
  obtain ⟨w, j, rfl, hw, hj⟩ : ∃ w j, k = 16 * w + j ∧ w < 4 ∧ j < 16 := ⟨k / 16, k % 16, by omega, by omega, by omega⟩
  rw [codeAt_eq h w j hw hj]
  rcases Nat.lt_or_ge j 15 with h15 | h15
  · rw [show 16 * w + j + 1 = 16 * w + (j + 1) by omega, codeAt_eq _ w (j + 1) hw (by omega)]
    match w, hw with
    | 0, _ => exact slot_shift_new _ _ _ h15
    | 1, _ => exact slot_shift _ _ _ h15
    | 2, _ => exact slot_shift _ _ _ h15
    | 3, _ => exact slot_shift _ _ _ h15
  · have : j = 15 := by omega
    subst this
    rw [show 16 * w + 15 + 1 = 16 * (w + 1) + 0 by omega, codeAt_eq _ (w + 1) 0 (by omega) (by omega)]
    match w, hw with
    | 0, _ => exact slot_carry _ _
    | 1, _ => exact slot_carry _ _
    | 2, _ => exact slot_carry _ _
    | 3, _ => omega

/-- The counters are the numbers of positions that hold a code. -/
theorem historyCount_eq (h : Vector (BitVec 32) 4) (c : OutcomeCode) :
    historyCount h c = positionCount h (outcomeBits c) := by
  generalize hx : outcomeBits c = x
  have e : List.range 64 = (List.range 4).flatMap fun w => (List.range 16).map fun j => 16 * w + j := by decide
  have e4 : h.toList = [h[0], h[1], h[2], h[3]] := by
    apply List.ext_getElem (by simp)
    intro i h1 h2
    simp only [List.length_cons, List.length_nil] at h2
    rcases i with _ | _ | _ | _ | i <;> first | omega | simp
  rw [historyCount, positionCount, e, e4, hx, List.countP_flatMap]
  have key : ∀ (w : Nat) (hw : w < 4), List.countP (fun k => decide (codeAt h k = x)) ((List.range 16).map fun j => 16 * w + j) =
      wordCount x h[w] := by
    intro w hw
    rw [List.countP_map, wordCount]
    apply List.countP_congr
    intro j hj
    rw [Function.comp_apply, codeAt_eq h w j hw (List.mem_range.1 hj)]
  show _ = List.sum [_, _, _, _]
  simp only [Function.comp_apply]
  rw [key 0 (by omega), key 1 (by omega), key 2 (by omega), key 3 (by omega)]
  rfl

theorem positionCount_push (c x : BitVec 2) (h : Vector (BitVec 32) 4) :
    positionCount (pushHistory c h) x + (if codeAt h 63 = x then 1 else 0) = positionCount h x + (if c = x then 1 else 0) := by
  have e1 : positionCount (pushHistory c h) x =
      (if c = x then 1 else 0) + (List.range 63).countP fun k => codeAt h k = x := by
    unfold positionCount
    rw [show (64 : Nat) = 63 + 1 from rfl, List.range_succ_eq_map, List.countP_cons, codeAt_push_zero, List.countP_map, Nat.add_comm]
    congr 1
    · simp
    · apply List.countP_congr
      intro k hk
      rw [Function.comp_apply, Nat.succ_eq_add_one, codeAt_push_succ c h k (List.mem_range.1 hk)]
  have e2 : positionCount h x =
      (List.range 63).countP (fun k => codeAt h k = x) + (if codeAt h 63 = x then 1 else 0) := by
    unfold positionCount
    rw [show (64 : Nat) = 63 + 1 from rfl, List.range_succ, List.countP_append]
    simp [List.countP_singleton]
  omega

theorem positionCount_sum (h : Vector (BitVec 32) 4) :
    positionCount h 0 + positionCount h 1 + positionCount h 2 + positionCount h 3 = 64 := by
  have key : ∀ l : List Nat, l.countP (fun k => codeAt h k = 0) + l.countP (fun k => codeAt h k = 1) +
      l.countP (fun k => codeAt h k = 2) + l.countP (fun k => codeAt h k = 3) = l.length := by
    intro l
    induction l with
    | nil => rfl
    | cons k l ih =>
      simp only [List.countP_cons, List.length_cons]
      have : ∀ c : BitVec 2, (if (decide (c = 0)) = true then 1 else 0) + (if (decide (c = 1)) = true then 1 else 0) +
          (if (decide (c = 2)) = true then 1 else 0) + (if (decide (c = 3)) = true then 1 else 0) = 1 := by decide
      have := this (codeAt h k)
      omega
  have := key (List.range 64)
  rwa [List.length_range] at this

/-- The score by positions. -/
theorem linkQuality_eq (h : Vector (BitVec 32) 4) :
    linkQuality h = 64 + positionCount h 0 - positionCount h 2 - positionCount h 3 := by
  simp only [linkQuality, historyCount_eq, outcomeBits, lqBase]

end Sys2Proof.Machine
end

