-- ==== Sys2Proof/Tests/Slice0.lean ====
section
/-! SUPPORT. The model's own tests: an ill-formed operation for every check of WellFormed, operation codes written out from the spec,
one-step tests whose expected values are those of 95_test_vectors.md or of a rule's own example (the source stands in each comment),
and, for every statement with hypotheses, a witness that they can be met together. -/

namespace Sys2Proof.Tests

open Sys2Proof Sys2Proof.Machine

/-! ### The illustrative parameters and black boxes of 95_test_vectors.md section 1 -/

/-- `TestFec`'s parity. -/
def testFec (b : List Byte) : List Byte := [checksum b, b.foldl (· ^^^ ·) 0]

/-- `TestHash4`. -/
def testHash (key ctr : Word32) : List Byte :=
  (List.range 4).map fun j =>
    (key ^^^ (key >>> 8) ^^^ (key >>> 16) ^^^ (key >>> 24)).setWidth 8 + BitVec.ofNat 8 (73 * (4 * ctr.toNat + j) + 41)

/-- P1, with the per-datarate values that the vectors vary. -/
def parameters (guard preamble : Nat) (maxLen : BitVec 8) (maxLen_pos : 1 ≤ maxLen.toNat) : Params :=
  { ppmMinUs := 1000, ppmMaxUs := 2020, morePpmCh := 7, fecNparity := 2, fecNparity_pos := by decide
    fecEncode := testFec, fecEncode_length := fun _ => rfl
    fecDecode := fun buf =>
      if 2 ≤ buf.length ∧ buf.drop (buf.length - 2) = testFec (buf.take (buf.length - 2)) then .clean else .uncorrectable
    fecDecode_length := by intro _ _ h; split at h <;> cases h
    digestLen := 4, digestLen_pos := by decide, keyedHash := testHash, keyedHash_length := fun _ _ => rfl
    datarates := [9600], datarates_9600 := by decide
    guardOf := fun _ => guard, spacingOf := fun _ => 10, spacing_pos := fun _ => by decide
    preambleOffsetOf := fun _ => preamble, maxPacketLenOf := fun _ => maxLen, maxPacketLen_pos := fun _ => maxLen_pos
    connectTimeoutMs := 250, connectTimeout_pos := by decide, supervisorTimeoutMs := 500, supervisorTimeout_pos := by decide
    eventQueueCap := 8, eventQueueCap_pos := by decide, streamQueueCap := 64 }

def P1 : Params := parameters 5 2 64 (by decide)

/-- P1 with a black box that answers `Corrected([00 48 69])` to the five bytes of V-C14. -/
def P1corrects : Params :=
  { P1 with
    fecDecode := fun buf => if buf = [0x00, 0x48, 0x6A, 0xB1, 0x21] then .corrected [0x00, 0x48, 0x69] else .uncorrectable
    fecDecode_length := by intro _ _ h; split at h <;> cases h; subst_vars; rfl }

/-! ### States -/

def ms (n : BitVec 16) (h : n ≠ 0 := by decide) : Period := ⟨n, h⟩

/-- The registers of `CFG-C2` (coordinator) or `CFG-P2` (peer), with the flags and the bound given. -/
def registers (role : Role) (ppmOnly ppmSend ppmRecv : Bool) (maxLen : BitVec 8) : ConfigRegs :=
  { role := some role
    deviceId := some (match role with | .coordinator => 0x1000 | .peer => 0x2000)
    peerId := some (match role with | .coordinator => 0x2000 | .peer => 0x1000)
    datarate := some 9600, minChannel := some 0, maxChannel := some 50, packetPeriodMs := some (ms 10)
    oneWayLink := some false, ppmOnly := some ppmOnly, ppmSend := some ppmSend, ppmRecv := some ppmRecv
    maxPacketLen := some maxLen }

/-- The table `[25 35 45 15]` of V-S1. -/
def table4 : Vector (BitVec 8) 32 := vecOf 32 fun k => [25#8, 35, 45, 15].getD k 0

/-- A configured node with the table of V-S1. -/
def node (role : Role) (ppmOnly ppmSend ppmRecv : Bool) (maxLen : BitVec 8) : State :=
  { State.reset with cfg := registers role ppmOnly ppmSend ppmRecv maxLen, channelTable := table4, channelCount := 4 }

/-- `CFG-C2` and `CFG-P2`. -/
def c2 : State := node .coordinator false false false 64
def p2 : State := node .peer false false false 64

/-- A node with bytes in its buffer. -/
def holding (s : State) (bytes : List Byte) : State :=
  { s with pktBuf := Memory.writeRange [] 0 bytes, pktLen := BitVec.ofNat 8 bytes.length }

/-- The samples of rule R115's example, and the sub-frame they give. -/
def samples : Vector TxSample 8 :=
  #v[.valid 1500, .valid 1000, .valid 2020, .noInput, .valid 1001, .valid 1002, .valid 3000, .valid 500]
def subframe : List Byte := [0xD7, 0x7D, 0x00, 0xFF, 0x00, 0x00, 0x01, 0xFF, 0x00, 0x53]

/-- What a field, or the result ports, hold after an operation that answers; the reason when it is refused. -/
def see {α : Type} (r : Except Fault State) (f : State → α) : Option α := r.toOption.map f
def result (r : Except Fault State) : Option Result := see r State.result
def refusal (r : Except Fault State) : Option Fault := match r with | .ok _ => none | .error f => some f

/-! ### WellFormed: an operation each check refuses (rule R95, rule R28) -/

theorem test_wf_refuses_field_number : (Instr.cfgSet 11 0).wf P1 = false := by decide
theorem test_wf_refuses_role : (Instr.cfgSet 0 2).wf P1 = false := by decide
theorem test_wf_refuses_datarate : (Instr.cfgSet 3 9601).wf P1 = false := by decide
theorem test_wf_refuses_channel_bounds : (Instr.cfgSet 4 251).wf P1 = false ∧ (Instr.cfgSet 5 251).wf P1 = false := by decide
theorem test_wf_refuses_period : (Instr.cfgSet 6 0).wf P1 = false ∧ (Instr.cfgSet 6 65536).wf P1 = false := by decide
theorem test_wf_refuses_flags : (Instr.cfgSet 7 2).wf P1 = false ∧ (Instr.cfgSet 8 2).wf P1 = false ∧
    (Instr.cfgSet 9 2).wf P1 = false ∧ (Instr.cfgSet 10 2).wf P1 = false := by decide
theorem test_wf_refuses_ppm_channel : (Instr.ppmSet 8 .noInput).wf P1 = false ∧ (Instr.ppmGet 8).wf P1 = false := by decide
theorem test_wf_refuses_stream : (Instr.streamTx 2 []).wf P1 = false := by decide
theorem test_wf_refuses_subframe_length :
    (Instr.ppmUnpack (List.replicate 9 0) true).wf P1 = false ∧ (Instr.ppmUnpack (List.replicate 10 0) false).wf P1 = false := by decide
theorem test_wf_refuses_checksum_length : (Instr.csum (List.replicate 256 0)).wf P1 = false := by
  simp only [Instr.wf, List.length_replicate]; decide
theorem test_wf_refuses_push_length :
    (Instr.bufPush []).wf P1 = false ∧ (Instr.bufPush (List.replicate 256 0)).wf P1 = false := by
  simp only [Instr.wf, List.length_replicate]; decide
theorem test_wf_refuses_header_length : (Instr.hdrParse (List.replicate 4 0)).wf P1 = false := by decide
theorem test_wf_refuses_outcome : (Instr.stPush 4).wf P1 = false := by decide
theorem test_wf_refuses_event : (Instr.evPost 9).wf P1 = false ∧ (Instr.evStep 9 0).wf P1 = false := by decide

/-! ### Decoding: the operation codes of rule R98 written out bit by bit, family in bits 7..4, operation in bits 3..0 -/

/-- One value on every port. -/
def ports : Ports :=
  { field := 5, value := 50, now := 1234, rssi := 0xA6, ch := 3, sample := .valid 1500, streamId := 1, data := [0x48, 0x69], code := 251,
    withCsum := true, bytes := [0x00, 0x00, 0x10, 0x00, 0x0D], len := 13, count := 3, destId := 0x1000, index := 6, outcome :=
      2, event := 7 }

theorem test_decode_callers :
    decode ⟨0b00000001, ports⟩ = .ok .init ∧ decode ⟨0b00000010, ports⟩ = .ok (.cfgSet 5 50) ∧
    decode ⟨0b00000011, ports⟩ = .ok (.statsGet 1234 0xA6) ∧ decode ⟨0b00000100, ports⟩ = .ok (.ppmSet 3 (.valid 1500)) ∧
    decode ⟨0b00000101, ports⟩ = .ok (.ppmGet 3) ∧ decode ⟨0b00000110, ports⟩ = .ok (.streamTx 1 [0x48, 0x69]) := by decide

theorem test_decode_codec :
    decode ⟨0b00010000, ports⟩ = .ok (.ppmEnc (.valid 1500)) ∧ decode ⟨0b00010001, ports⟩ = .ok (.ppmDec 251) ∧
    decode ⟨0b00010010, ports⟩ = .ok (.ppmPack true) ∧
    decode ⟨0b00010011, ports⟩ = .ok (.ppmUnpack [0x00, 0x00, 0x10, 0x00, 0x0D] true) ∧
    decode ⟨0b00010100, ports⟩ = .ok (.csum [0x00, 0x00, 0x10, 0x00, 0x0D]) ∧ decode ⟨0b00010101, ports⟩ = .ok .frameBuild ∧
    decode ⟨0b00010110, ports⟩ = .ok (.frameParse 13) ∧ decode ⟨0b00010111, ports⟩ = .ok .bufReset ∧
    decode ⟨0b00011000, ports⟩ = .ok (.bufPush [0x48, 0x69]) ∧ decode ⟨0b00011001, ports⟩ = .ok (.bufPop 3) ∧
    decode ⟨0b00011010, ports⟩ = .ok (.hdrBuild 0x1000 13) ∧
    decode ⟨0b00011011, ports⟩ = .ok (.hdrParse [0x00, 0x00, 0x10, 0x00, 0x0D]) := by decide

theorem test_decode_scheduler :
    decode ⟨0b00100000, ports⟩ = .ok .chGen ∧ decode ⟨0b00100001, ports⟩ = .ok (.chAt 6) ∧
    decode ⟨0b00100010, ports⟩ = .ok (.clkTime 1234) ∧ decode ⟨0b00100011, ports⟩ = .ok .clkSync ∧
    decode ⟨0b00100100, ports⟩ = .ok (.hopEval 1234) ∧ decode ⟨0b00100101, ports⟩ = .ok (.slotTurn 1234) := by decide

theorem test_decode_statistics :
    decode ⟨0b00110000, ports⟩ = .ok (.stPush 2) ∧ decode ⟨0b00110001, ports⟩ = .ok .stRead ∧
    decode ⟨0b00110010, ports⟩ = .ok (.stContact 1234) ∧ decode ⟨0b00110011, ports⟩ = .ok .stIsconn ∧
    decode ⟨0b00110100, ports⟩ = .ok (.stTochk 1234) ∧ decode ⟨0b00110101, ports⟩ = .ok (.txnOpen 1234) ∧
    decode ⟨0b00110110, ports⟩ = .ok .txnClose ∧ decode ⟨0b00110111, ports⟩ = .ok (.toTxn 1234) ∧
    decode ⟨0b00111000, ports⟩ = .ok (.toSup 1234) := by decide

theorem test_decode_sequencer :
    decode ⟨0b01000000, ports⟩ = .ok (.evPost 7) ∧ decode ⟨0b01000001, ports⟩ = .ok (.evStep 7 1234) ∧
    decode ⟨0b01000010, ports⟩ = .ok (.loopTick 1234) := by decide

/-- A gap of each family and the codes past the last one. -/
theorem test_decode_rejects : ∀ op ∈ [0x00#8, 0x07, 0x0F, 0x1C, 0x26, 0x39, 0x43, 0x80, 0xFF],
    decode ⟨op, ports⟩ = .error (.badOperation op) := by decide

/-- 0x31 as the host numbers a row: decoded, and run as the next step. -/
theorem test_table_word : decodeTableWord 8 0x31 = some .stRead ∧ decodeTableWord 8 0x43 = none := by decide
theorem test_step_runs_fetched_word :
    step (State.reset.withFetchWord 8 0x33) = .next { State.reset with result := .connected false } := rfl

/-! ### Callers -/

/-- Rule R240's example: `ST.PUSH Good` then `INIT`. -/
theorem test_init_history :
    see (runAt P1 .init { State.reset with history := #v[0xFFFFFFFC, 0xFFFFFFFF, 0xFFFFFFFF, 0xFFFFFFFF], pktLen := 5 })
      (fun t => (t.history[0], t.pktLen)) = some (0xFFFFFFFF, 0) := by decide

/-- Rule R241's example, last write: `CFG.SET 5, 50` makes the table `[25 35 45 15]`. -/
theorem test_cfg_set_makes_table :
    see (runAt P1 (.cfgSet 5 50) {
        c2 with cfg := { c2.cfg with maxChannel := none }, channelTable := State.reset.channelTable, channelCount := 0 })
      (fun t => (t.channelCount.val, t.channelTable.toList.take 4)) = some (4, [25, 35, 45, 15]) := by decide

/-- Rule R241: the table is emptied while an input is unset, and a started node posts `Initialize`. -/
theorem test_cfg_set_unset_input_and_post :
    see (runAt P1 (.cfgSet 0 0) { c2 with fsmState := .rxMode, cfg := { c2.cfg with peerId := none } })
      (fun t => (t.channelCount.val, t.eventQueue, t.wakeCount, t.cfg.role)) = some (0, [.initializeLink], 1, some .peer) := by decide

/-- PRG-2: `STATS.GET 1486, -70` at age 250. -/
theorem test_stats_get_disconnects :
    result (runAt P1 (.statsGet 1486 (-70)) { c2 with connState := .connected, lastContactTimestamp := 1236, history :=
      #v[0xFFFFFFF2, 0xFFFFFFFF, 0xFFFFFFFF, 0xFFFFFFFF] })
      = some (.stats 1 0 1 62 2 (-70) false) := by decide

/-- Rule R243: stored unclamped, no other channel touched. -/
theorem test_ppm_set : see (runAt P1 (.ppmSet 6 (.valid 3000)) State.reset) (fun t => (t.ppmTx[6], t.ppmTx[5])) =
    some (.valid 3000, .noInput) := by decide

/-- Rule R244's example, and the operand check of rule R95. -/
theorem test_ppm_get : result (runAt P1 (.ppmGet 2) State.reset) = some (.sample .timeout) ∧
    refusal (runAt P1 (.ppmGet 8) State.reset) = some .badOperand := by decide

/-- Rule R245's example with 62 of 64 bytes already queued on the auxiliary stream. -/
theorem test_stream_tx : see (runAt P1 (.streamTx 1 [1, 2, 3]) { c2 with txQueueAux := List.replicate 62 0 })
    (fun t => (t.result, t.txQueueAux.drop 62, t.txQueuePrimary)) = some (.accepted 2, [1, 2], []) := by decide

/-! ### Packet codec -/

/-- V-C1: 1499, 2021 and the failsafe. -/
theorem test_ppm_enc : ([.valid 1499, .valid 2021, .valid 999, .noInput] : List TxSample).map
    (fun v => result (runAt P1 (.ppmEnc v) State.reset)) =
    [some (.code 250), some (.code 511), some (.code 1), some (.code 0)] := by decide

/-- V-C2. -/
theorem test_ppm_dec : ([0, 1, 250, 511] : List (BitVec 9)).map (fun c => result (runAt P1 (.ppmDec c) State.reset)) =
    [some (.sample .timeout), some (.sample (.valid 1000)), some (.sample (.valid 1498)), some (.sample (.valid 2020))] := by decide

/-- V-C6. -/
theorem test_ppm_pack : result (runAt P1 (.ppmPack true) { State.reset with ppmTx := samples }) = some (.bytes subframe) := by decide

/-- Rule R116's example, and with the last byte 54. -/
theorem test_ppm_unpack :
    see (runAt P1 (.ppmUnpack subframe true) State.reset) (fun t => (t.result, t.ppmRx.toList)) =
      some (.ok true, [.valid 1500, .valid 1000, .valid 2020, .timeout, .valid 1000, .valid 1002, .valid 2020, .valid 1000]) ∧
    see (runAt P1 (.ppmUnpack (subframe.set 9 0x54) true) { State.reset with ppmRx := Vector.replicate 8 (.valid 7) })
      (fun t => (t.result, t.ppmRx.toList)) = some (.ok false, List.replicate 8 .timeout) := by decide

/-- V-C9 and rule R118's example. -/
theorem test_csum : ([[], [0xFF, 0x01], [0x80, 0x80, 0x01], subframe.take 9] : List (List Byte)).map
    (fun b => result (runAt P1 (.csum b) State.reset)) =
    [some (.sum 0), some (.sum 0), some (.sum 1), some (.sum 0x53)] := by decide

/-- V-C10. -/
theorem test_hdr_build : result (runAt P1 (.hdrBuild 0x12345678 255) State.reset) =
    some (.bytes [0x12, 0x34, 0x56, 0x78, 0xFF]) := by decide
theorem test_hdr_parse : result (runAt P1 (.hdrParse [0x12, 0x34, 0x56, 0x78, 0xFF]) State.reset) = some (.header 0x12345678 255) ∧
    refusal (runAt P1 (.hdrParse [0x00, 0x00, 0x10, 0x00]) State.reset) = some .badOperand := by decide

/-- PRG-3: frame F1. -/
theorem test_frame_build_multiplexed :
    see (runAt P1 .frameBuild { node .coordinator false true false 64 with
        ppmTx := vecOf 8 fun i => if i < 7 then .valid 1500 else .noInput, txQueuePrimary := [0x48, 0x69], txQueueAux := [0xAA] })
      (fun t => (t.result, pktBytes t, t.streamToggle, t.txQueuePrimary, t.txQueueAux)) =
      some (.built 14 0x2000 true, [0x7F, 0x7D, 0x7D, 0x7D, 0x7D, 0x7D, 0x7D, 0x7D, 0x00, 0x00, 0x48, 0x69, 0x9B, 0x23], true, [],
        [0xAA]) := by
  decide

/-- PRG-2: the PPM-only frame; V-C12: no room. -/
theorem test_frame_build_ppm_only :
    see (runAt P1 .frameBuild { node .coordinator true true false 64 with ppmTx := samples })
      (fun t => (t.result, pktBytes t, t.streamToggle)) = some (.built 10 0x2000 true, subframe, false) ∧
    refusal (runAt P1 .frameBuild (node .peer false true false 8)) = some .configInvalid := by decide

/-- Rule R130's example, V-C13's reserved selector and V-C14. -/
theorem test_frame_parse_multiplexed :
    result (runAt P1 (.frameParse 5) (holding p2 [0x00, 0x48, 0x69, 0xB1, 0x21])) = some (.parsed .good (some .primary) [0x48, 0x69]) ∧
    result (runAt P1 (.frameParse 5) (holding p2 [0x00, 0x48, 0x6A, 0xB1, 0x21])) = some (.parsed .error none []) ∧
    result (runAt P1 (.frameParse 4) (holding p2 [0x07, 0x55, 0x5C, 0x52])) = some (.parsed .good none []) ∧
    result (runAt P1corrects (.frameParse 5) (holding p2 [0x00, 0x48, 0x6A, 0xB1, 0x21])) =
      some (.parsed .corrected (some .primary) [0x48, 0x69]) := by
  decide

/-- V-C15. -/
theorem test_frame_parse_ppm_only :
    see (runAt P1 (.frameParse 10) (holding (node .peer true false true 64) subframe)) (fun t => (t.result, t.ppmRx[4])) =
      some (.parsed .good none [], .valid 1000) ∧
    see (runAt P1 (.frameParse 10) (holding (node .peer true false true 64) (subframe.set 9 0x54))) (fun t => (t.result, t.ppmRx[4])) =
      some (.parsed .error none [], .timeout) ∧
    result (runAt P1 (.frameParse 9) (holding (node .peer true false true 64) (subframe.take 9))) = some (.parsed .failure none []) ∧
    result (runAt P1 (.frameParse 0) (node .peer true false false 64)) = some (.parsed .good none []) := by decide

/-- Rule R136's example. -/
theorem test_buf_reset : see (runAt P1 .bufReset (holding c2 [0x00, 0x48, 0x69, 0xB1, 0x21])) (fun t => (t.pktLen, t.pktRd)) =
    some (0, 0) := by decide

/-- Rule R135's example: `maxPacketLen = 8`, `pktLen = 6`. -/
theorem test_buf_push :
    see (runAt P1 (.bufPush [1, 2, 3]) (holding (node .peer false false false 8) [9, 9, 9, 9, 9, 9])) (fun t => (t.result, t.pktLen)) =
      some (.ok false, 6) ∧
    see (runAt P1 (.bufPush [1, 2]) (holding (node .peer false false false 8) [9, 9, 9, 9, 9, 9])) (fun t => (t.result, pktBytes t)) =
      some (.ok true, [9, 9, 9, 9, 9, 9, 1, 2]) := by decide

/-- Rule R137's example, second and third pop. -/
theorem test_buf_pop :
    see (runAt P1 (.bufPop 3) { holding c2 [0x00, 0x48, 0x69, 0xB1, 0x21] with pktRd := 3 }) (fun t => (t.result, t.pktRd)) =
      some (.data [0xB1, 0x21], 5) ∧
    result (runAt P1 (.bufPop 3) { holding c2 [0x00, 0x48, 0x69, 0xB1, 0x21] with pktRd := 5 }) = some (.data []) := by decide

/-! ### Scheduler -/

/-- V-S2: the peer's ID as the key of a peer, and V-S1's odd working array. -/
theorem test_ch_gen :
    see (runAt P1 .chGen { State.reset with cfg := { c2.cfg with deviceId := some 0x2000 } })
      (fun t => (t.result, t.channelTable.toList.take 4)) =
      some (.count 4, [35, 5, 25, 15]) ∧
    see (runAt P1 .chGen { State.reset with cfg := p2.cfg, channelIndex := 3 })
      (fun t => (t.channelIndex, t.channelTable.toList.take 4)) =
      some (0, [25, 35, 45, 15]) := by decide

/-- V-S9: `lo = 15 > hi = 5` gives an empty table; rule R150: an unset input. -/
theorem test_ch_gen_empty :
    see (runAt (parameters 15 2 64 (by decide)) .chGen { c2 with cfg := { c2.cfg with maxChannel := some 20 } })
      (fun t => t.channelCount.val) = some 0 ∧
    refusal (runAt P1 .chGen State.reset) = some .configUnset := by decide

/-- V-S12. -/
theorem test_ch_at : ([3, 4, 4294967295] : List (BitVec 32)).map (fun n => result (runAt P1 (.chAt n) c2)) =
      [some (.channel 15), some (.channel 25), some (.channel 15)] ∧
    refusal (runAt P1 (.chAt 0) State.reset) = some .noChannels := by decide

/-- V-S13. -/
theorem test_clk_time : result (runAt P1 (.clkTime 4294967290) { p2 with clockSkewMs := 41 }) = some (.time 35) ∧
    result (runAt P1 (.clkTime 1234) { c2 with clockSkewMs := 41 }) = some (.time 1234) := by decide

/-- V-S14. -/
theorem test_clk_sync :
    see (runAt P1 .clkSync { p2 with packetStartTimestamp := 1200 }) (fun t => (t.result, t.clockSkewMs)) = some (.skew 42, 42) ∧
    result (runAt P1 .clkSync { p2 with packetStartTimestamp := 1234, channelIndex := 3 }) = some (.skew 38) ∧
    result (runAt P1 .clkSync { c2 with clockSkewMs := 7 }) = some (.skew 7) := by decide

/-- Rule R160's example, then PRG-2's last line: a connected peer timed out drops back to index 0. -/
theorem test_hop_eval :
    see (runAt P1 (.hopEval 27) c2) (fun t => (t.result, t.channelIndex)) = some (.hop 45 true, 2) ∧
    see (runAt P1 (.hopEval 1490) { p2 with clockSkewMs := 8, channelIndex := 2, connState := .connected, lastContactTimestamp := 1236 })
      (fun t => (t.result, t.channelIndex, t.connState)) = some (.hop 25 true, 0, .disconnected) := by decide

/-- V-S20, V-S21. -/
theorem test_slot_turn :
    ([0, 1, 11, 21] : List Tick).map (fun t => result (runAt P1 (.slotTurn t) c2)) =
      [some (.myTurn false), some (.myTurn true), some (.myTurn false), some (.myTurn true)] ∧
    ([0, 1, 11, 21] : List Tick).map (fun t => result (runAt P1 (.slotTurn t) p2)) =
      [some (.myTurn false), some (.myTurn false), some (.myTurn true), some (.myTurn false)] := by decide

/-! ### Statistics and timeouts -/

/-- Rule R180: a code crosses from word 0 into word 1 (V-T1, row 17, on the last push). -/
theorem test_st_push : see (runAt P1 (.stPush 0) { State.reset with history := #v[0x00000000, 0xFFFFFFFF, 0xFFFFFFFF, 0xFFFFFFFF] })
      (fun t => t.history.toList) = some [0x00000000, 0xFFFFFFFC, 0xFFFFFFFF, 0xFFFFFFFF] ∧
    refusal (runAt P1 (.stPush 4) State.reset) = some .badOperand := by decide

/-- Rule R182's example. -/
theorem test_st_read : result (runAt P1 .stRead { State.reset with history := #v[0xFFFFFF1B, 0xFFFFFFFF, 0xFFFFFFFF, 0xFFFFFFFF] }) =
    some (.counters 1 1 1 61 3) := by decide

/-- V-T6. -/
theorem test_st_contact : see (runAt P1 (.stContact 5000) State.reset) (fun t => (t.lastContactTimestamp, t.connState)) =
    some (5000, .connected) := by decide
theorem test_st_isconn : result (runAt P1 .stIsconn State.reset) = some (.connected false) ∧
    result (runAt P1 .stIsconn { State.reset with connState := .connected }) = some (.connected true) := by decide
theorem test_st_tochk :
    see (runAt P1 (.stTochk 5249) { c2 with connState := .connected, lastContactTimestamp :=
      5000 }) (fun t => (t.result, t.connState)) = some (.timedOut false, .connected) ∧
    see (runAt P1 (.stTochk 154) { c2 with connState := .connected, lastContactTimestamp :=
      4294967200 }) (fun t => (t.result, t.connState)) =
      some (.timedOut true, .disconnected) := by decide

/-- Rules R193, R194, V-T7. -/
theorem test_txn_open : see (runAt P1 (.txnOpen 1234) State.reset) (fun t => (t.packetStartTimestamp, t.txnOpen)) =
    some (1234, true) := by decide
theorem test_txn_close : see (runAt P1 .txnClose { State.reset with packetStartTimestamp := 1234, txnOpen := true })
    (fun t => (t.packetStartTimestamp, t.txnOpen)) = some (1234, false) := by decide
theorem test_to_txn : ([24, 25] : List Tick).map 
      (fun n => result (runAt P1 (.toTxn n) { c2 with packetStartTimestamp := 4294967290, txnOpen := true })) =
    [some (.expired false), some (.expired true)] := by decide

/-- V-T8. -/
theorem test_to_sup : ([500, 501] : List Tick).map (fun n => result (runAt P1 (.toSup n) State.reset)) =
    [some (.expired false), some (.expired true)] := by decide

/-! ### Sequencer -/

/-- Rule R212's example; a full queue loses the event. -/
theorem test_ev_post :
    see (runAt P1 (.evPost 2) State.reset) (fun t => (t.result, t.eventQueue, t.wakeCount)) = some (.ok true, [.internalInterrupt], 1) ∧
    see (runAt P1 (.evPost 2) { State.reset with eventQueue := List.replicate 8 .timeout, wakeCount := 8 })
      (fun t => (t.result, t.eventQueue.length, t.wakeCount)) = some (.ok false, 8, 8) := by decide

/-- PRG-6 at 140: a frame for a peer on the synchronisation channel, and its cascade. -/
theorem test_ev_step_reception :
    see (runAt P1 (.evStep 2 140) { p2 with fsmState := .rxMode, answers := { State.reset.answers with
        status := [⟨true, 0, 0⟩], rx := [.packetComplete 5 [0x00, 0x48, 0x69, 0xB1, 0x21]] } })
      (fun t => (t.fsmState, t.clockSkewMs, t.lastContactTimestamp, t.history[0], t.trace)) =
      some (.rxMode, 22, 140, 0xFFFFFFFC, [.readStatusRegisters, .pollRx, .received .primary [0x48, 0x69], .armReceiver]) := by decide

/-- PRG-6 at 190: the next chunk of a transmission. -/
theorem test_ev_step_transmission :
    see (runAt P1 (.evStep 2 190) {
        holding p2 [0x00, 0x01, 0x02, 0x03, 0x04, 0x05, 0x0F, 0x01] with
        fsmState := .txStart, pktRd := 4, txnOpen := true
        answers := { State.reset.answers with status := [⟨true, 0, 0⟩], tx := [.needsMoreData 3] } })
      (fun t => (t.fsmState, t.pktRd, t.trace)) = some (.txData, 7, [.readStatusRegisters, .pollTx, .feed [0x04, 0x05, 0x0F]]) :=
        by decide

/-- PRG-4 at 606: the supervisor's `Error`. -/
theorem test_loop_tick_supervisor :
    see (runAt P1 (.loopTick 606) { c2 with fsmState := .rxMode, lastEventTimestamp := 105, answers :=
      { State.reset.answers with idOk := [true] } })
      (fun t => (t.fsmState, t.resets, t.lastEventTimestamp, t.trace)) =
      some (.rxMode, 1, 606, [.resetAndIdentify, .configure 0x1000 0x2000 9600, .armReceiver]) := by decide

/-- PRG-5 at 1001: the coordinator's turn. -/
theorem test_loop_tick_turn :
    see (runAt P1 (.loopTick 1001) { c2 with
        fsmState := .rxMode, lastEventTimestamp := 1000, txQueuePrimary := [0x48, 0x69]
        answers := { State.reset.answers with take := [64] } })
      (fun t => (t.fsmState, t.pktRd, t.txnOpen, t.trace)) =
      some (.txStart, 5, true, [.armTransmitter [0x00, 0x48, 0x69, 0xB1, 0x21] 0x2000]) := by decide

/-! ### Witnesses: concrete states and operands that meet the hypotheses of each statement, clause by clause, at boundary values -/

/-- A node with one request waiting. -/
def asking (s : State) (r : Request) : State := { s with requests := [r] }

theorem numPpmCh_range : 1 ≤ Config.params.numPpmCh ∧ Config.params.numPpmCh ≤ 8 := by
  have := Config.params.morePpmCh.isLt
  unfold Params.numPpmCh; omega

theorem witness_StepRunsDecodedOperation :
    (asking State.reset ⟨0x42, {}⟩).requests = ⟨0x42, {}⟩ :: [] ∧ decode ⟨0x42, {}⟩ = .ok (.loopTick 0) ∧
    (asking State.reset ⟨0x43, {}⟩).requests = ⟨0x43, {}⟩ :: [] ∧ decode ⟨0x43, {}⟩ = .error (.badOperation 0x43) ∧
    State.reset.requests = [] := ⟨rfl, rfl, rfl, rfl, rfl⟩

theorem witness_DecodeOperationMap : ∀ op ∈ [0x00#8, 0x07, 0x0F, 0x1C, 0x26, 0x2F, 0x39, 0x3F, 0x43, 0xFF],
    op.toNat ∉ [0x01, 0x02, 0x03, 0x04, 0x05, 0x06] ∧
    op.toNat ∉ [0x10, 0x11, 0x12, 0x13, 0x14, 0x15, 0x16, 0x17, 0x18, 0x19, 0x1A, 0x1B] ∧
    op.toNat ∉ [0x20, 0x21, 0x22, 0x23, 0x24, 0x25] ∧
    op.toNat ∉ [0x30, 0x31, 0x32, 0x33, 0x34, 0x35, 0x36, 0x37, 0x38] ∧ op.toNat ∉ [0x40, 0x41, 0x42] := by decide

theorem witness_EncodeDecodeRoundTrip : decode ⟨0x1B, ports⟩ = .ok (.hdrParse [0x00, 0x00, 0x10, 0x00, 0x0D]) ∧
    encode (.stPush 2) = encode (.stPush 2) := ⟨rfl, rfl⟩

theorem witness_PpmValueMaps :
    (0#16).toNat ≤ Config.params.ppmMinUs ∧ Config.params.ppmMaxUs ≤ (0xFFFF#16).toNat ∧ (1#9) ≠ 0 ∧ (511#9) ≠ 0 :=
  ⟨Nat.zero_le _, Nat.le_of_lt_succ Config.params.ppmMax_lt, by decide, by decide⟩

theorem witness_PpmRoundTripLaws :
    P1.ppmMinUs ≤ (1000#16).toNat ∧ (1000#16).toNat ≤ P1.ppmMaxUs ∧ P1.ppmMinUs ≤ (2020#16).toNat ∧ (2020#16).toNat ≤ P1.ppmMaxUs ∧
    510 ∣ P1.ppmMaxUs - P1.ppmMinUs ∧ (1000#16).toNat ≤ (1000#16).toNat := by decide

theorem witness_PpmPackLayout : 0 < Config.params.numPpmCh ∧ State.reset.ppmTx.toList[0]? = some .noInput ∧ Config.params.numPpmCh ≤ 8 :=
  ⟨numPpmCh_range.1, rfl, numPpmCh_range.2⟩

theorem witness_PpmUnpackWritesSamples :
    ([] : List Byte).length ≠ 1 + Config.params.numPpmCh + true.toNat ∧
    (List.replicate (1 + Config.params.numPpmCh + 1) 1#8).length = 1 + Config.params.numPpmCh + true.toNat ∧
    (List.replicate (1 + Config.params.numPpmCh) 1#8).length = 1 + Config.params.numPpmCh + false.toNat := by
  simp only [List.length_nil, List.length_replicate]
  exact ⟨by omega, rfl, rfl⟩

theorem witness_PpmPackThenUnpack : 0 < Config.params.numPpmCh := numPpmCh_range.1

theorem witness_ChecksumIsByteSum : ([] : List Byte).length ≤ 255 ∧ (List.replicate 255 0xFF#8).length ≤ 255 :=
  ⟨by decide, by simp only [List.length_replicate]; decide⟩

theorem witness_HeaderFields : ([0, 0, 16, 0] : List Byte).length ≠ 5 ∧ ([0, 0, 16, 0, 13] : List Byte).length = 5 := by decide

/-- The largest buffer, with room for exactly one byte and then none. -/
theorem witness_BufPushAppends :
    BufferInv { node .peer false false false 255 with pktLen := 254 } ∧ (node .peer false false false 255).cfg.maxPacketLen = some 255 ∧
    1 ≤ ([7] : List Byte).length ∧ (254#8).toNat + ([7] : List Byte).length ≤ (255#8).toNat ∧
    1 ≤ ([7, 7] : List Byte).length ∧ ([7, 7] : List Byte).length ≤ 255 ∧ (255#8).toNat < (254#8).toNat + ([7, 7] : List Byte).length :=
  ⟨⟨rfl, by decide⟩, rfl, by decide⟩

theorem witness_BufResetAndPop : 0 < min (255#8).toNat ((5#8).toNat - (4#8).toNat) := by decide

theorem witness_BufPopChunksConcatenate :
    (∃ f t, frameBuild P1 { c2 with txQueuePrimary := [0x48, 0x69] } = .ok (f, t) ∧ f.len.toNat = 5) ∧
    5 ≤ (([3, 0, 2] : List (BitVec 8)).map BitVec.toNat).sum := ⟨⟨_, _, rfl, rfl⟩, by decide⟩

/-- A sub-frame that does not fit `maxPacketLen = 1`; the empty payload and the 10-byte sub-frame that fit. -/
theorem witness_FrameBuildPpmOnly :
    BufferInv (node .coordinator true true false 1) ∧ (node .coordinator true true false 1).cfg.ppmOnly = some true ∧
    (node .coordinator true true false 1).cfg.peerId = some 0x2000 ∧ (1#8).toNat < (ppmPack Config.params State.reset.ppmTx true).length ∧
    ([] : List Byte).length ≤ (1#8).toNat ∧ (ppmPack Config.params State.reset.ppmTx true).length ≤ (10#8).toNat := by
  have h := ppmPack_length Config.params State.reset.ppmTx true
  have := numPpmCh_range
  refine ⟨⟨rfl, Nat.le_refl _⟩, rfl, rfl, ?_, by decide, ?_⟩ <;> rw [h] <;> simp only [Bool.toNat_true,
      BitVec.reduceToNat] <;> omega

/-- Room for one byte too few, exactly enough, and one stream byte. -/
theorem witness_FrameBuildMultiplexed :
    BufferInv c2 ∧ c2.cfg.ppmOnly = some false ∧ c2.cfg.ppmSend = some false ∧ c2.cfg.peerId = some 0x2000 ∧
    (2#8).toNat < ([] : List Byte).length + 1 + P1.fecNparity ∧ ([] : List Byte).length + 1 + P1.fecNparity ≤ (3#8).toNat ∧
    (11#8).toNat < (ppmPack P1 c2.ppmTx false).length + 1 + P1.fecNparity ∧
      (ppmPack P1 c2.ppmTx false).length + 1 + P1.fecNparity ≤ (12#8).toNat :=
  ⟨⟨rfl, Nat.le_refl _⟩, rfl, rfl, rfl, by decide⟩

theorem witness_FrameParseWritesOnlySamples :
    c2.cfg.ppmOnly = some false ∧ (node .peer true false true 64).cfg.ppmOnly = some true ∧ c2.cfg.ppmRecv = some false ∧
    (node .peer true false true 64).cfg.ppmRecv = some true ∧ (1#8) ≠ c2.pktLen ∧ Config.params.numPpmCh ≤ 8 :=
  ⟨rfl, rfl, rfl, rfl, by decide, numPpmCh_range.2⟩

theorem witness_FrameParsePpmOnly :
    (node .peer true false true 64).cfg.ppmOnly = some true ∧ (node .peer true false false 64).cfg.ppmRecv = some false ∧
    (node .peer true false true 64).cfg.ppmRecv = some true ∧ (11#8).toNat ≠ Config.params.numPpmCh + 2 ∧
    (BitVec.ofNat 8 (Config.params.numPpmCh + 2)).toNat = Config.params.numPpmCh + 2 := by
  have := numPpmCh_range
  refine ⟨rfl, rfl, rfl, ?_, ?_⟩ <;> simp only [BitVec.toNat_ofNat] <;> omega

/-- Two bytes where three are needed; three; the corrupted and the corrected frame of V-C14. -/
theorem witness_FrameParseMultiplexed :
    p2.cfg.ppmOnly = some false ∧ p2.cfg.ppmRecv = some false ∧
    (holding p2 [0x00, 0x00]).pktLen.toNat < 0 + 1 + P1.fecNparity ∧
    0 + 1 + P1.fecNparity ≤ (holding p2 [0x00, 0x00, 0x00]).pktLen.toNat ∧
    P1.fecDecode (pktBytes (holding p2 [0x00, 0x00, 0x00])) = .clean ∧
    P1.fecDecode (pktBytes (holding p2 [0x00, 0x48, 0x6A, 0xB1, 0x21])) = .uncorrectable ∧
    P1corrects.fecDecode (pktBytes (holding p2 [0x00, 0x48, 0x6A, 0xB1, 0x21])) = .corrected [0x00, 0x48, 0x69] := by decide

theorem testFec_roundTrip : P1.FecRoundTrip := by
  intro b
  have : (b ++ testFec b).length - 2 = b.length := by simp [testFec]
  show (if 2 ≤ (b ++ testFec b).length ∧ (b ++ testFec b).drop ((b ++ testFec b).length - 2) =
    testFec ((b ++ testFec b).take ((b ++ testFec b).length - 2)) then FecVerdict.clean else .uncorrectable) = .clean
  rw [this, List.drop_left, List.take_left, if_pos ⟨by simp [testFec], rfl⟩]

/-- A coordinator that sends the samples and two stream bytes, and a peer that received them. -/
theorem witness_BuildThenParse :
    P1.FecRoundTrip ∧ BufferInv c2 ∧ ∃ f a', frameBuild P1 { c2 with txQueuePrimary := [0x48, 0x69] } = .ok (f, a') ∧
      p2.cfg.ppmOnly = c2.cfg.ppmOnly ∧ p2.cfg.ppmRecv = c2.cfg.ppmSend ∧
      (holding p2 [0x00, 0x48, 0x69, 0xB1, 0x21]).pktLen = f.len ∧ pktBytes (holding p2 [0x00, 0x48, 0x69, 0xB1, 0x21]) = pktBytes a' :=
  ⟨testFec_roundTrip, ⟨rfl, Nat.le_refl _⟩, _, _, rfl, rfl, rfl, by decide⟩

theorem witness_ChannelShuffle :
    State.reset.cfg.role = none ∧ ({ p2.cfg with peerId := none } : ConfigRegs).role = some .peer ∧
    c2.cfg.role = some .coordinator ∧ (if Role.coordinator = .coordinator then c2.cfg.deviceId else c2.cfg.peerId) = some 0x1000 ∧
    p2.cfg.role = some .peer ∧ (if Role.peer = .coordinator then p2.cfg.deviceId else p2.cfg.peerId) = some 0x1000 ∧
    c2.cfg.datarate = some 9600 ∧ c2.cfg.minChannel = some 0 ∧ c2.cfg.maxChannel = some 50 := by decide

theorem witness_ChannelTableInvariants : tableInputs State.reset.cfg = none ∧ tableInputs c2.cfg = some ⟨0x1000, 9600, 0, 50⟩ ∧
    see (runAt P1 .chGen c2) (fun t => t.channelCount.val) = some 4 := by decide

theorem witness_ChannelAtIndex : State.reset.channelCount = 0 ∧ c2.channelCount ≠ 0 := by decide

theorem witness_LogicalClock : c2.cfg.role = some .coordinator ∧ p2.cfg.role = some .peer ∧ State.reset.cfg.role = none := by decide

theorem witness_SkewLearning :
    c2.cfg.role = some .coordinator ∧ p2.cfg.role = some .peer ∧ State.reset.channelCount = 0 ∧ p2.channelCount ≠ 0 ∧
    p2.cfg.packetPeriodMs = some (ms 10) ∧ p2.cfg.datarate = some 9600 ∧ p2.channelIndex = 0 ∧
    p2.packetStartTimestamp.toNat + ((ms 10).ms.toNat * p2.channelCount.val -
      p2.packetStartTimestamp.toNat % ((ms 10).ms.toNat * p2.channelCount.val) + 2 +
      (ms 10).ms.toNat * p2.channelIndex.val) < 4294967296 := by decide

theorem witness_HopEvaluation :
    State.reset.channelCount = 0 ∧ { c2 with cfg := ConfigRegs.unset }.channelCount ≠ 0 ∧
      { c2 with cfg := ConfigRegs.unset }.cfg.role = none ∧
    { c2.cfg with packetPeriodMs := none }.packetPeriodMs = none ∧ ¬ (Role.coordinator = .peer ∧ c2.connState = .disconnected) ∧
    c2.cfg.role = some .coordinator ∧ p2.cfg.role = some .peer ∧ p2.cfg.packetPeriodMs = some (ms 10) := by decide

theorem witness_SendSlotTest :
    c2.cfg.oneWayLink = some false ∧ c2.cfg.role = some .coordinator ∧ p2.cfg.role = some .peer ∧ c2.cfg.packetPeriodMs = some (ms 10) ∧
    State.reset.cfg.oneWayLink = none ∧ { p2.cfg with oneWayLink := some true, packetPeriodMs := none }.oneWayLink = some true ∧
    { c2.cfg with packetPeriodMs := none }.packetPeriodMs = none ∧
    ¬ ({ c2.cfg with packetPeriodMs := none }.oneWayLink = some true ∧
      { c2.cfg with packetPeriodMs := none }.role = some .peer) := by decide

/-- The first window and the last one that does not wrap; a slot of each role. -/
theorem witness_SlotAlternation :
    1 ≤ 1 ∧ 1 + 2 * (ms 1).ms.toNat ≤ 4294967296 ∧ 4294836226 + 2 * (ms 65535).ms.toNat ≤ 4294967296 ∧ 2 ≤ (ms 2).ms.toNat ∧
    slotTest false .coordinator (ms 2) 1 = true ∧ slotTest false .peer (ms 2) 3 = true := by decide

theorem witness_OutcomePush : 3 ≤ 3 ∧ 3 < 4 ∧ 62 < 63 := by decide

theorem witness_LinkQualityLaws : 64 ≤ 64 ∧ 0 ≤ 64 := by decide

theorem witness_TransactionAndSupervisor :
    State.reset.txnOpen = false ∧ { c2 with txnOpen := true }.txnOpen = true ∧ c2.cfg.packetPeriodMs = some (ms 10) ∧
    State.reset.cfg.packetPeriodMs = none := by decide

/-- Every field at a boundary of its legal values, and illegal ones beside them; a queue with room and a full one. -/
theorem witness_CfgSetWritesField :
    legalCfgValue Config.params 11 0 = false ∧ legalCfgValue Config.params 0 2 = false ∧ legalCfgValue Config.params 5 251 = false ∧
    legalCfgValue Config.params 0 1 = true ∧ legalCfgValue Config.params 1 0xFFFFFFFF = true ∧ legalCfgValue Config.params 2 0 = true ∧
    legalCfgValue Config.params 3 9600 = true ∧ legalCfgValue Config.params 4 250 = true ∧ legalCfgValue Config.params 5 250 = true ∧
    legalCfgValue Config.params 6 1 = true ∧ legalCfgValue Config.params 6 65535 = true ∧ legalCfgValue Config.params 7 1 = true ∧
    legalCfgValue Config.params 8 0 = true ∧ legalCfgValue Config.params 9 1 = true ∧ legalCfgValue Config.params 10 1 = true ∧
    State.reset.fsmState = .uninitialized ∧ { c2 with fsmState := .rxMode }.fsmState ≠ .uninitialized ∧
    c2.eventQueue.length < Config.params.eventQueueCap ∧
    Config.params.eventQueueCap ≤ (List.replicate Config.params.eventQueueCap Event.rxMode).length :=
  ⟨rfl, rfl, rfl, rfl, rfl, rfl, decide_eq_true Config.params.datarates_9600, rfl, rfl, rfl, rfl, rfl, rfl, rfl, rfl, rfl, by decide,
    Config.params.eventQueueCap_pos, by simp⟩

theorem witness_PpmSampleFiles : 0 < Config.params.numPpmCh ∧ Config.params.numPpmCh - 1 < Config.params.numPpmCh ∧
    Config.params.numPpmCh - 1 < 8 ∧ Config.params.numPpmCh ≤ 8 := by
  have := numPpmCh_range; omega

theorem witness_StreamQueueing : 1 < 2 := by decide

theorem witness_EventPost : 8 ≤ 8 ∧ 8 < 9 ∧ State.reset.eventQueue.length < Config.params.eventQueueCap ∧
    Config.params.eventQueueCap ≤ (List.replicate Config.params.eventQueueCap Event.rxMode).length :=
  ⟨by decide, by decide, Config.params.eventQueueCap_pos, by simp⟩

theorem witness_TransitionTable : transition State.reset.fsmState .internalInterrupt = none ∧
    transition .fatalError .initializeLink = none ∧ 8 < 9 := by
  decide

/-- An entry action that ends the cascade, one that goes on, one that is refused. -/
theorem witness_CascadeRule :
    transition .rxMode .rxMode = some .rxMode ∧ (∃ t, entryAction Config.params 0 .rxMode c2 = .ok (none, t)) ∧
    transition .rxMode .timeout = some .timeout ∧ (∃ t, entryAction Config.params 0 .timeout c2 = .ok (some .rxMode, t)) ∧
    transition .rxMode .txStart = some .txStart ∧ entryAction Config.params 0 .txStart State.reset = .error .configUnset ∧ 4 ≤ 5 :=
  ⟨rfl, ⟨_, rfl⟩, rfl, ⟨_, rfl⟩, rfl, rfl, by decide⟩

theorem witness_TimeoutAndRxModeEvents : { c2 with fsmState := .txData }.fsmState ∈ [FsmState.rxMode, .rxData, .txStart, .txData] :=
    by decide

/-- Answers a call can find: supplied, and free. -/
theorem witness_InitializeEvent :
    State.reset.fsmState ∈ [FsmState.uninitialized, .rxMode, .rxData, .txStart, .txData, .timeout, .error] ∧
    AnswerTaken [true] Config.freeIdOk 0 true [] 0 ∧ AnswerTaken [false] Config.freeIdOk 0 false [] 0 ∧
    AnswerTaken [] Config.freeIdOk 0 (Config.freeIdOk 0) [] 1 ∧ c2.cfg.deviceId = some 0x1000 ∧ c2.cfg.peerId = some 0x2000 ∧
    c2.cfg.datarate = some 9600 ∧ State.reset.cfg.deviceId = none :=
  ⟨by decide, .inl ⟨rfl, rfl⟩, .inl ⟨rfl, rfl⟩, .inr ⟨rfl, rfl, rfl, rfl⟩, rfl, rfl, rfl, rfl⟩

theorem witness_ErrorEvent : { c2 with fsmState := .rxData }.fsmState ∈ [FsmState.initializing, .rxMode, .rxData, .txStart, .txData,
    .timeout] := by
  decide

theorem witness_FatalErrorIsTerminal :
    { c2 with fsmState := .error }.fsmState ∈ [FsmState.initializing, .rxMode, .rxData, .txStart, .txData, .timeout, .error] ∧
    ∃ t, step (asking { c2 with fsmState := .fatalError } ⟨0x40, {}⟩) = .next t :=
  ⟨by decide, by
    refine ⟨(evPost Config.params .initializeLink { c2 with fsmState := .fatalError }).2.withResult
      (.ok (evPost Config.params .initializeLink { c2 with fsmState := .fatalError }).1), rfl⟩⟩

theorem witness_TransceiverResetRaisesError :
    { c2 with fsmState := .txStart }.fsmState ∈ [FsmState.rxMode, .rxData, .txStart, .txData] ∧
    AnswerTaken [⟨false, 0, 0⟩] Config.freeStatus 0 ⟨false, 0, 0⟩ [] 0 := ⟨by decide, .inl ⟨rfl, rfl⟩⟩

/-- Bytes that just fit, one more, none, and the transport's failure. -/
theorem witness_ReceiveContinuesOrFails :
    { p2 with fsmState := .rxData }.fsmState ∈ [FsmState.rxMode, .rxData] ∧
    AnswerTaken [⟨true, 0, 0⟩] Config.freeStatus 0 ⟨true, 0, 0⟩ [] 0 ∧
    AnswerTaken [.moreDataPending []] Config.freeRx 0 (.moreDataPending []) [] 0 ∧
    AnswerTaken [.moreDataPending [9, 9]] Config.freeRx 0 (.moreDataPending [9, 9]) [] 0 ∧
      AnswerTaken [.fail] Config.freeRx 0 .fail [] 0 ∧
    AnswerTaken [.packetComplete 3 [9, 9, 9]] Config.freeRx 0 (.packetComplete 3 [9, 9, 9]) [] 0 ∧ p2.cfg.maxPacketLen = some 64 ∧
    (62#8).toNat + ([9, 9] : List Byte).length ≤ (64#8).toNat ∧ (64#8).toNat < (62#8).toNat + ([9, 9, 9] : List Byte).length :=
  ⟨by decide, .inl ⟨rfl, rfl⟩, .inl ⟨rfl, rfl⟩, .inl ⟨rfl, rfl⟩, .inl ⟨rfl, rfl⟩, .inl ⟨rfl, rfl⟩, rfl, by decide⟩

/-- An empty PPM-only frame is `Good`; one whose length disagrees is `Failure`; a peer at index 0 and a coordinator. -/
theorem witness_ReceiveCompletes :
    { node .peer true false false 64 with fsmState := .rxMode }.fsmState ∈ [FsmState.rxMode, .rxData] ∧
    AnswerTaken [.packetComplete 0 []] Config.freeRx 0 (.packetComplete 0 []) [] 0 ∧
    frameParse Config.params 0 (node .peer true false false 64) = .ok (ParsedFrame.nothing .good, node .peer true false false 64) ∧
    frameParse Config.params 1 (node .peer true false false 64) = .ok (ParsedFrame.nothing .failure, node .peer true false false 64) ∧
    p2.channelIndex = 0 ∧ p2.channelCount ≠ 0 ∧ p2.cfg.packetPeriodMs = some (ms 10) ∧ p2.cfg.datarate = some 9600 ∧
    c2.cfg.role = some .coordinator :=
  ⟨by decide, .inl ⟨rfl, rfl⟩, rfl, rfl, by decide⟩

/-- A turn and the tick after it; a coordinator with an empty payload, a peer with nothing to send, a peer with samples to send. -/
theorem witness_TransmitStart :
    { c2 with fsmState := .rxMode }.fsmState = .rxMode ∧ { c2 with fsmState := .rxData }.fsmState = .rxData ∧
      c2.cfg.oneWayLink = some false ∧
    slotTest false .coordinator (ms 10) (logicalTime .coordinator 0 1) = true ∧
      slotTest false .coordinator (ms 10) (logicalTime .coordinator 0 2) = false ∧
    slotTest false .peer (ms 10) (logicalTime .peer 0 11) = true ∧
    (∃ f u, frameBuild Config.params (node .coordinator true false false 64) = .ok (f, u) ∧ f.haveData = false) ∧
    (∃ f u, frameBuild Config.params (node .peer true false false 64) = .ok (f, u) ∧ f.haveData = false) ∧
    (∃ f u, frameBuild Config.params (node .peer true true false 64) = .ok (f, u) ∧ f.haveData = true) ∧
    AnswerTaken [4] Config.freeTake 0 4 [] 0 := by
  have h := ppmPack_length Config.params (node .peer true true false 64).ppmTx true
  have := numPpmCh_range
  refine ⟨rfl, rfl, rfl, by decide, by decide, by decide, ⟨_, _, rfl, rfl⟩, ⟨_, _, rfl, rfl⟩, ?_, .inl ⟨rfl, rfl⟩⟩
  refine ⟨_, _, if_neg ?_, rfl⟩
  show ¬ (64#8).toNat < (ppmPack Config.params (node .peer true true false 64).ppmTx true).length
  rw [h]; simp only [Bool.toNat_true, BitVec.reduceToNat]; omega

theorem witness_TransmitInterrupt :
    { c2 with fsmState := .txStart }.fsmState ∈ [FsmState.txStart, .txData] ∧
    AnswerTaken [⟨true, 0, 0⟩] Config.freeStatus 0 ⟨true, 0, 0⟩ [] 0 ∧
    AnswerTaken [.needsMoreData 3] Config.freeTx 0 (.needsMoreData 3) [] 0 ∧ AnswerTaken [.sent] Config.freeTx 0 .sent [] 0 ∧
    AnswerTaken [.fail] Config.freeTx 0 .fail [] 0 :=
  ⟨by decide, .inl ⟨rfl, rfl⟩, .inl ⟨rfl, rfl⟩, .inl ⟨rfl, rfl⟩, .inl ⟨rfl, rfl⟩⟩

/-- Interrupts before the start; two events on a started node, the older one answered; one refused on an unconfigured node; an
initialisation whose identification fails. -/
theorem witness_LoopTickDrainsQueue :
    0 < { c2 with eventQueue := [.internalInterrupt], wakeCount := 1 }.wakeCount ∧
    (∃ t, exec (.loopTick 7) { c2 with eventQueue := [.internalInterrupt], wakeCount := 1 } = .next t) ∧
    (∀ e ∈ [Event.internalInterrupt], e = .internalInterrupt) ∧ c2.fsmState = .uninitialized ∧
    ¬ (Event.timeout = .internalInterrupt ∧ (FsmState.rxData = .uninitialized ∨ FsmState.rxData = .initializing)) ∧
    (∃ t, exec (.evStep (eventCode .timeout) 7) { c2 with
      fsmState := .rxData, eventQueue := [.internalInterrupt], lastEventTimestamp := 7 } = .next t) ∧
    exec (.evStep (eventCode .initializeLink) 7) { State.reset with
      lastEventTimestamp := 7, answers := { State.reset.answers with idOk := [true] } } = .fault .configUnset ∧
    ∃ t, exec (.evStep 0 7) { c2 with lastEventTimestamp := 7, answers := { c2.answers with idOk := [false] } } = .next t ∧
      t.fsmState = .fatalError :=
  ⟨by decide, ⟨_, rfl⟩, by decide, rfl, by decide, ⟨_, rfl⟩, rfl, _, rfl, rfl⟩

/-- One tick past the supervisor's time, on an unstarted node and on a running one. -/
theorem witness_LoopTickSupervisor :
    State.reset.wakeCount = 0 ∧ P1.supervisorTimeoutMs < ((501#32).toNat + 4294967296 - State.reset.lastEventTimestamp.toNat) % 4294967296 ∧
    { c2 with fsmState := .rxMode }.fsmState ∈ [FsmState.rxMode, .rxData, .txStart, .txData] ∧
    (runAt P1 (.loopTick 501) { c2 with fsmState := .rxMode, answers := { c2.answers with idOk := [true] } }).isOk = true := by decide

/-- A tick at the time of the last event (no expiry), and one whose signal finds no event; a running node and one that is not. An index
unchanged, a hop of a coordinator and of a connected peer in contact, a pinned peer; a turn and the tick after it; a transaction overdue
by one; a peer whose contact is older than the timeout of the vectors' parameters. -/
theorem witness_LoopTickRunningNode :
    c2.wakeCount = 0 ∧ ((2#32).toNat + 4294967296 - (2#32).toNat) % 4294967296 ≤ Config.params.supervisorTimeoutMs ∧
    c2.eventQueue = [] ∧ 0 < { c2 with wakeCount := 1 }.wakeCount ∧ c2.fsmState = .uninitialized ∧
    { c2 with fsmState := .rxMode }.fsmState ∈ [FsmState.rxMode, .rxData, .txStart, .txData] ∧ c2.channelCount ≠ 0 ∧
    c2.cfg.role = some .coordinator ∧ p2.cfg.role = some .peer ∧ c2.cfg.packetPeriodMs = some (ms 10) ∧
    c2.cfg.oneWayLink = some false ∧
    (0 : Fin 32).val = (2#32).toNat / (ms 10).ms.toNat % c2.channelCount.val ∧ (0 : Fin 32) = c2.channelIndex ∧
    (1 : Fin 32).val = (10#32).toNat / (ms 10).ms.toNat % c2.channelCount.val ∧ (1 : Fin 32) ≠ c2.channelIndex ∧
    slotTest false .coordinator (ms 10) 1 = true ∧ slotTest false .coordinator (ms 10) 2 = false ∧
    slotTest false .peer (ms 10) 11 = true ∧
    3 * (ms 10).ms.toNat < ((2#32).toNat + 4294967296 - (4294967267#32).toNat) % 4294967296 ∧
    ¬ (Config.params.connectTimeoutMs ≤ ((11#32).toNat + 4294967296 - (11#32).toNat) % 4294967296) ∧
    P1.connectTimeoutMs ≤ ((4294967295#32).toNat + 4294967296 - (0#32).toNat) % 4294967296 ∧ p2.connState = .disconnected :=
  ⟨by decide, by simp, rfl, by decide, rfl, by decide, by decide, rfl, rfl, rfl, rfl, by decide, by decide, by decide, by decide,
    by decide, by decide, by decide, by decide, by have := Config.params.connectTimeout_pos; simp; omega, by decide, rfl⟩

theorem witness_RefusalReasons :
    (Instr.stPush 4).wf Config.params = false ∧ exec (.stPush 4) State.reset = .fault .badOperand ∧
    exec .frameBuild State.reset = .fault .configUnset ∧ exec (.chAt 0) State.reset = .fault .noChannels ∧
    exec .frameBuild (node .coordinator true true false 1) = .fault .configInvalid := by
  refine ⟨rfl, rfl, rfl, rfl, ?_⟩
  have h := ppmPack_length Config.params (node .coordinator true true false 1).ppmTx true
  have := numPpmCh_range
  have hlong : (1#8).toNat < (ppmPack Config.params (node .coordinator true true false 1).ppmTx true).length := by
    rw [h]; simp only [Bool.toNat_true, BitVec.reduceToNat]; omega
  have hb : frameBuild Config.params (node .coordinator true true false 1) = .error .configInvalid := by
    unfold frameBuild; simp only [node, registers, need_some, ok_bind, if_true]; exact if_pos hlong
  change finish (runFrameBuild Config.params (node .coordinator true true false 1)) = finish (.error .configInvalid)
  rw [runFrameBuild, hb]; rfl

theorem witness_WritersOfState : ∃ t, exec (.stContact 5) State.reset = .next t ∧
    t.connState ≠ State.reset.connState := ⟨_, rfl, by decide⟩

/-- A push through the step. -/
theorem witness_StepKeepsBuffer : BufferInv (asking c2 ⟨0x18, { data := [7] }⟩) ∧
    ∃ t, step (asking c2 ⟨0x18, { data := [7] }⟩) = .next t := ⟨⟨rfl, Nat.le_refl _⟩, _, rfl⟩

/-- The reset state, where one more register is set through the step. -/
theorem witness_StepKeepsTable :
    TableInv (asking State.reset ⟨0x02, {}⟩) ∧ TableMatches Config.params (asking State.reset ⟨0x02, {}⟩) ∧
    ∃ t, step (asking State.reset ⟨0x02, {}⟩) = .next t :=
  ⟨⟨rfl, by decide, fun _ _ _ h => absurd h (Nat.not_lt_zero _), fun _ h => absurd h (Nat.not_lt_zero _)⟩, rfl, _, rfl⟩

theorem witness_StepKeepsConfigAndQueues :
    ConfigInv Config.params (asking State.reset ⟨0x02, {}⟩) ∧ QueueInv Config.params (asking State.reset ⟨0x02, {}⟩) ∧
    ∃ t, step (asking State.reset ⟨0x02, {}⟩) = .next t :=
  ⟨⟨(nofun), (nofun), (nofun), rfl⟩, ⟨Nat.zero_le _, rfl, Nat.zero_le _, Nat.zero_le _⟩, _, rfl⟩

theorem witness_StepKeepsSequencerAtRest :
    SequencerInv (asking { c2 with answers := { c2.answers with idOk := [true] } } ⟨0x41, { event := 0 }⟩) ∧
    ∃ t, step (asking { c2 with answers := { c2.answers with idOk := [true] } } ⟨0x41, { event := 0 }⟩) = .next t :=
  ⟨⟨rfl, by decide⟩, _, rfl⟩

/-- Three bytes: the smallest bound the layout of `CFG-C2` fits. -/
theorem witness_OperationalNodeAnswers : Operational P1 (node .coordinator false false false 3) ∧ (Instr.loopTick 0).wf P1 = true ∧
    (Instr.stPush 3).wf P1 = true :=
  ⟨⟨⟨rfl, rfl, rfl, rfl, rfl, rfl, rfl, rfl, rfl, rfl, rfl, rfl⟩, by decide, fun a b m ha hb hm => by
    cases ha; cases hb; cases hm; exact (by decide : muxFixedLen P1 (subLenOf P1 false false) ≤ (3#8).toNat)⟩, rfl, rfl⟩

end Sys2Proof.Tests
end

section
/-! SUPPORT. The step and its decoder: the statement of 00_scope.md. -/

namespace Sys2Proof.Machine

/-- The refusal of rule R95, the companion of `step_cons` for a code outside the table. -/
theorem step_cons_of_decode_error {s : State} {r : Request} {rest : List Request} {e : DecodeError}
    (h : s.requests = r :: rest) (he : decode r = .error e) : step s = .fault .badOperation := by
  simp only [step, h, he]

/-- Settles O1: `step_cons`, `step_cons_of_decode_error` and `step_nil` are the three branches of the step, `exec_eq` the parametric
machine. -/
theorem stepRunsDecodedOperation : Obligations.StepRunsDecodedOperation := by
  intro s
  refine ⟨?decoded, ?refused, ?idle, ?parametric⟩
  case decoded => exact fun r rest i h hi => step_cons h hi
  case refused => exact fun r rest e h he => step_cons_of_decode_error h he
  case idle => exact step_nil
  case parametric => exact fun i => exec_eq i s

end Sys2Proof.Machine
end

section
/-! SUPPORT. What every step keeps: the operations outside the sequencer are single writes of `Touch` or one of the callers' and the
scheduler's pieces, so an invariant is kept by every step when these, `EV.STEP` and `LOOP.TICK` keep it (`KeptByStep`). -/

namespace Sys2Proof.Machine

variable {p : Params} {s t u : State} {now : Tick} {P : State → Prop}

/-! ### Frames -/

/-- A push writes the bytes and the write cursor only (rule R135). -/
theorem bufPush_frame (m : BitVec 8) (data : List Byte) (s : State) : (bufPush m data s).2 = { s with
    pktBuf := (bufPush m data s).2.pktBuf, pktLen := (bufPush m data s).2.pktLen } := by
  rcases bufPush_cases m data s with ⟨h, -⟩ | ⟨-, h⟩ <;> rw [h]

/-- `CLK.SYNC` writes the learned skew only (rule R158). -/
theorem clkSync_frame {v : BitVec 32} (h : clkSync p s = .ok (v, t)) : t = { s with clockSkewMs := t.clockSkewMs } := by
  rcases clkSync_cases h with ⟨-, rfl, -⟩ | ⟨-, rfl, -⟩ <;> rfl

/-- `HOP.EVAL` writes the index and the latch only (rule R160). -/
theorem hopEval_frame {c : BitVec 8} {changed : Bool} (h : hopEval p now s = .ok (c, changed, t)) :
    t = { s with connState := t.connState, channelIndex := t.channelIndex } := by
  obtain ⟨idx, conn, rfl, -⟩ := hopEval_cases h
  rfl

/-- `FRAME.PARSE` writes the received samples only (rule R130). -/
theorem frameParse_frame {len : BitVec 8} {f : ParsedFrame} (h : frameParse p len s = .ok (f, t)) :
    t = { s with ppmRx := t.ppmRx } := by
  rcases frameParse_snd h with rfl | ⟨g, rfl⟩ <;> rfl

/-- `EV.POST` writes the event queue and its signal only (rule R212). -/
theorem evPost_frame (e : Event) (s : State) : (evPost p e s).2 = { s with
    eventQueue := (evPost p e s).2.eventQueue, wakeCount := (evPost p e s).2.wakeCount } := by
  unfold evPost
  split <;> rfl

/-- `STREAM.TX` writes the stream queues only (rule R245). -/
theorem setTxQueue_frame (s : State) (id : StreamId) (q : List Byte) : setTxQueue s id q = { s with
    txQueuePrimary := (setTxQueue s id q).txQueuePrimary, txQueueAux := (setTxQueue s id q).txQueueAux } := by
  cases id <;> rfl

/-- The registers, and the channel table with its index, after `CFG.SET` has written `c` (rule R241). -/
def configured (p : Params) (field : Nat) (c : ConfigRegs) (s : State) : State :=
  if field ≤ 5 then regenerate p { s with cfg := c } else { s with cfg := c }

/-- `CFG.SET` writes the registers and the channel table with its index, before the re-`Initialize` (rule R241). -/
theorem configured_frame (field : Nat) (c : ConfigRegs) (s : State) : configured p field c s = { s with
    cfg := c, channelTable := (configured p field c s).channelTable, channelCount := (configured p field c s).channelCount
    channelIndex := (configured p field c s).channelIndex } := by
  unfold configured
  split
  · rw [regenerate_frame]
  · rfl

/-- What the single writes of an entry action may write: neither the event queue, nor the configuration, nor the channel table, nor
the samples to send, nor the requests. -/
theorem touch_frame (h : Touch p s t) : t = { s with
    clockSkewMs := t.clockSkewMs, history := t.history, connState := t.connState
    lastContactTimestamp := t.lastContactTimestamp, packetStartTimestamp := t.packetStartTimestamp, txnOpen := t.txnOpen
    ppmRx := t.ppmRx, streamToggle := t.streamToggle, pktBuf := t.pktBuf, pktLen := t.pktLen, pktRd := t.pktRd
    txDest := t.txDest, txQueuePrimary := t.txQueuePrimary, txQueueAux := t.txQueueAux
    answers := t.answers, freeCount := t.freeCount, trace := t.trace } := by
  cases h
  case sync v h => rw [clkSync_frame h]
  case push m data _ => rw [bufPush_frame m data s]
  case build f h => rw [frameBuild_frame h]
  all_goals rfl

/-! ### The steps of the driving loop after its events (rule R216) -/

theorem tickHop_keeps (k : Kept p P) (hop : ∀ s t c changed, hopEval p now s = .ok (c, changed, t) → P s → P t)
    (h : tickHop p now s = .ok t) (hs : P s) : P t := by
  obtain ⟨⟨c, changed, u⟩, hu, h⟩ := bind_eq_ok.1 h
  have h1 : P u := hop s u c changed hu hs
  cases changed
  · cases h; exact h1
  · exact evStep_keeps k h (k.touch _ _ (.emit _ u) h1)

theorem tickTxn_keeps (k : Kept p P) (h : tickTxn p now s = .ok t) (hs : P s) : P t := by
  obtain ⟨expired, -, h⟩ := bind_eq_ok.1 h
  cases expired
  · cases h; exact hs
  · exact evStep_keeps k h hs

theorem tickTurn_keeps (k : Kept p P) (h : tickTurn p now s = .ok t) (hs : P s) : P t := by
  unfold tickTurn at h
  split at h
  · obtain ⟨turn, -, h⟩ := bind_eq_ok.1 h
    cases turn
    · cases h; exact hs
    · exact evStep_keeps k h hs
  · cases h; exact hs

/-- The loop is its events, then steps 3 to 5 when the link runs. -/
theorem loopTick_cases (h : loopTick p now s = .ok t) : ∃ u, tickEvents p now s = .ok u ∧
    (t = u ∨ ∃ v w, tickHop p now u = .ok v ∧ tickTxn p now v = .ok w ∧ tickTurn p now w = .ok t) := by
  obtain ⟨u, hu, h⟩ := bind_eq_ok.1 h
  refine ⟨u, hu, ?_⟩
  split at h
  · obtain ⟨v, hv, h⟩ := bind_eq_ok.1 h
    obtain ⟨w, hw, h⟩ := bind_eq_ok.1 h
    exact .inr ⟨v, w, hv, hw, h⟩
  · cases h; exact .inl rfl

/-! ### Every step -/

/-- An invariant that every piece a step can be made of keeps. -/
structure KeptByStep (p : Params) (P : State → Prop) : Prop where
  touch : ∀ s t, Touch p s t → P s → P t
  event : ∀ s t e now, evStep p e now s = .ok t → P s → P t
  tick : ∀ s t now, loopTick p now s = .ok t → P s → P t
  hop : ∀ s t now c changed, hopEval p now s = .ok (c, changed, t) → P s → P t
  configure : ∀ s c field value, writeCfg p s.cfg field value = some c → P s → P (configured p field c s)
  generate : ∀ s t, tableInputs s.cfg = some t → P s → P (chGen p t s)
  post : ∀ s e, P s → P (evPost p e s).2
  stream : ∀ s id (data : List Byte), P s →
    P (setTxQueue s id (txQueue s id ++ data.take (min data.length (p.streamQueueCap - (txQueue s id).length))))
  plain : ∀ (s : State) conn tx requests result, P s →
    P { s with connState := conn, ppmTx := tx, requests := requests, result := result }

/-- `CFG.SET`'s re-`Initialize` keeps what `EV.POST` keeps (rule R241). -/
theorem postReinit_keeps (post : ∀ s e, P s → P (evPost p e s).2) (hs : P s) : P (postReinit p s) := by
  unfold postReinit
  split
  · exact hs
  · exact post s _ hs

theorem effect_keeps (k : KeptByStep p P) {i : Instr} (h : Effect p s u i) (hs : P s) : P u := by
  cases i with
  | init => cases h; exact k.touch _ _ (.init s) hs
  | cfgSet field value =>
    obtain ⟨c, hc, rfl⟩ := h
    exact postReinit_keeps k.post (k.configure s c field value hc hs)
  | ppmSet ch sample => cases h.2; exact k.plain s s.connState _ s.requests s.result hs
  | statsGet now _ | stTochk now => cases h; exact k.plain s _ s.ppmTx s.requests s.result hs
  | streamTx streamId data => obtain ⟨id, -, rfl⟩ := h; exact k.stream s id data hs
  | ppmUnpack bytes withCsum => obtain ⟨f, rfl⟩ := h; exact k.touch _ _ (.samples f s) hs
  | frameBuild => obtain ⟨f, hf⟩ := h; exact k.touch _ _ (.build f s u hf) hs
  | frameParse len => obtain ⟨f, hf⟩ := h; exact (frameParse_touches hf).keeps k.touch hs
  | bufReset => cases h; exact k.touch _ _ (.reset s) hs
  | bufPush data => obtain ⟨m, hm, rfl⟩ := h; exact k.touch _ _ (.push m data s hm) hs
  | bufPop n => cases h; exact k.touch _ _ (.pop n s) hs
  | chGen => obtain ⟨t, ht, rfl⟩ := h; exact k.generate s t ht hs
  | clkSync => obtain ⟨v, hv⟩ := h; exact k.touch _ _ (.sync v s u hv) hs
  | hopEval now => obtain ⟨c, changed, hc⟩ := h; exact k.hop s u now c changed hc hs
  | stPush outcome => obtain ⟨code, rfl⟩ := h; exact k.touch _ _ (.outcome code s) hs
  | stContact now => cases h; exact k.touch _ _ (.contact now s) hs
  | txnOpen now => cases h; exact k.touch _ _ (.opening now s) hs
  | txnClose => cases h; exact k.touch _ _ (.close s) hs
  | evPost event => obtain ⟨e, -, rfl⟩ := h; exact k.post s e hs
  | evStep event now => obtain ⟨e, -, he⟩ := h; exact k.event s u e now he hs
  | loopTick now => exact k.tick s u now h hs
  | ppmGet _ | ppmEnc _ | ppmDec _ | ppmPack _ | csum _ | hdrBuild _ _ | hdrParse _ | chAt _ | clkTime _ | slotTurn _
  | stRead | stIsconn | toTxn _ | toSup _ => cases h; exact hs

theorem step_keeps (k : KeptByStep Config.params P) (h : step s = .next t) (hs : P s) : P t := by
  rcases step_effect h with rfl | ⟨r, rest, i, u, result, -, -, hu, rfl⟩
  · exact hs
  · have h1 : P u := effect_keeps k hu (k.plain s s.connState s.ppmTx rest s.result hs)
    exact k.plain u u.connState u.ppmTx u.requests result h1

end Sys2Proof.Machine
end

section
/-! SUPPORT. The packet buffer's invariant (10_state.md rule R42, 20_memory.md rule R66). -/

namespace Sys2Proof.Machine

variable {p : Params} {s t : State}

theorem BufferInv.congr (hs : BufferInv s) (h : t.pktBuf = s.pktBuf ∧ t.pktLen = s.pktLen ∧ t.pktRd = s.pktRd) : BufferInv t := by
  obtain ⟨hbuf, hlen, hrd⟩ := h
  exact ⟨hbuf ▸ hs.canonical, hlen ▸ hrd ▸ hs.cursors⟩

/-- A push ends inside the buffer, since `maxPacketLen` is at most 255 (rule R135). -/
theorem bufPush_bufferInv (m : BitVec 8) (data : List Byte) (hs : BufferInv s) : BufferInv (bufPush m data s).2 := by
  rcases bufPush_cases m data s with ⟨h, -⟩ | ⟨hroom, h⟩
  · rw [h]; exact hs
  · have hfits : s.pktLen.toNat + data.length < 256 := Nat.lt_of_le_of_lt hroom m.isLt
    have hcursor := hs.cursors
    rw [h]
    refine ⟨wf_writeRange hs.canonical data (by simp only [pktCells]; omega), ?_⟩
    simp only [BitVec.toNat_ofNat]
    omega

/-- A pop stops at the write cursor (rule R137). -/
theorem bufPop_bufferInv (n : BitVec 8) (hs : BufferInv s) : BufferInv (bufPop n s).2 := by
  have hcursor := hs.cursors
  have hlen := s.pktLen.isLt
  refine ⟨hs.canonical, ?_⟩
  simp only [bufPop_snd, BitVec.toNat_ofNat]
  omega

/-- A payload of at most 255 bytes is inside the buffer, and its read cursor at 0 (rule R125). -/
theorem loadFrame_bufferInv {payload : List Byte} (dest : Word32) (hlen : payload.length ≤ pktCells) (hs : BufferInv s) :
    BufferInv (loadFrame payload dest s) :=
  ⟨wf_writeRange hs.canonical payload (by omega), Nat.zero_le _⟩

/-- A built frame is no longer than `maxPacketLen` (rule R125). -/
theorem frameBuild_bufferInv {f : BuiltFrame} (h : frameBuild p s = .ok (f, t)) (hs : BufferInv s) : BufferInv t := by
  obtain ⟨ppmSend, maxLen, dest, -, -, -, ⟨-, hfits, -, rfl⟩ | ⟨-, hfits, -, rfl⟩⟩ := frameBuild_cases h
  · have := maxLen.isLt
    exact loadFrame_bufferInv dest (by simp only [pktCells]; omega) hs
  · have := maxLen.isLt
    refine loadFrame_bufferInv dest ?_ (hs.congr ?_)
    · simp only [muxFixedLen] at hfits
      simp only [List.length_append, List.length_take, p.fecEncode_length, List.length_singleton, pktCells, muxFixedLen]
      omega
    · cases streamOfToggle s.streamToggle <;> exact ⟨rfl, rfl, rfl⟩

theorem touch_bufferInv (h : Touch p s t) (hs : BufferInv s) : BufferInv t := by
  cases h
  case reset => exact ⟨hs.canonical, Nat.le_refl 0⟩
  case init => exact ⟨hs.canonical, Nat.le_refl 0⟩
  case push m data _ => exact bufPush_bufferInv m data hs
  case pop n => exact bufPop_bufferInv n hs
  case build f h => exact frameBuild_bufferInv h hs
  case sync v h => exact hs.congr (by rw [clkSync_frame h]; exact ⟨rfl, rfl, rfl⟩)
  all_goals exact hs.congr ⟨rfl, rfl, rfl⟩

theorem bufferInv_keptInLoop : KeptInLoop p BufferInv where
  touch _ _ h hs := touch_bufferInv h hs
  fault _ f hs := by cases f <;> exact ⟨hs.canonical, Nat.le_refl 0⟩
  move _ _ hs := hs.congr ⟨rfl, rfl, rfl⟩
  queue _ _ _ _ hs := hs.congr ⟨rfl, rfl, rfl⟩
  hop _ _ _ _ _ h hs := hs.congr (by rw [hopEval_frame h]; exact ⟨rfl, rfl, rfl⟩)

/-- The callers' and the scheduler's operations leave the buffer alone. -/
theorem bufferInv_keptByStep : KeptByStep p BufferInv where
  touch _ _ h hs := touch_bufferInv h hs
  event _ _ _ _ h hs := evStep_keeps bufferInv_keptInLoop.toKept h hs
  tick _ _ _ h hs := loopTick_keeps bufferInv_keptInLoop h hs
  hop := bufferInv_keptInLoop.hop
  configure _ _ _ _ _ hs := hs.congr (by rw [configured_frame]; exact ⟨rfl, rfl, rfl⟩)
  generate _ _ _ hs := hs.congr ⟨rfl, rfl, rfl⟩
  post _ _ hs := hs.congr (by rw [evPost_frame]; exact ⟨rfl, rfl, rfl⟩)
  stream _ _ _ hs := hs.congr (by rw [setTxQueue_frame]; exact ⟨rfl, rfl, rfl⟩)
  plain _ _ _ _ _ hs := hs.congr ⟨rfl, rfl, rfl⟩

/-- Settles O56: every write to the buffer ends inside it, so every piece of a step keeps the invariant. -/
theorem stepKeepsBuffer : Obligations.StepKeepsBuffer := fun _ _ hs h => step_keeps bufferInv_keptByStep h hs

end Sys2Proof.Machine
end

section
/-! SUPPORT. The configuration registers' and the queues' invariants (10_state.md rules R25, R28, R43). -/

namespace Sys2Proof.Machine

variable {p : Params} {s t : State} {now : Tick}

/-! ### The configuration registers -/

theorem ConfigInv.congr (hs : ConfigInv p s) (h : t.cfg = s.cfg) : ConfigInv p t :=
  ⟨h ▸ hs.datarate, h ▸ hs.minChannel, h ▸ hs.maxChannel, h ▸ hs.maxPacketLen⟩

theorem datarateOfValue_mem {v d : BitVec 32} (h : datarateOfValue p v = some d) : d ∈ p.datarates := by
  unfold datarateOfValue at h
  split at h
  · cases h; assumption
  · cases h

theorem channelOfValue_le {v : BitVec 32} {c : BitVec 8} (h : channelOfValue v = some c) : c.toNat ≤ chMax := by
  unfold channelOfValue at h
  split at h
  case isTrue hv =>
    cases h
    rw [BitVec.toNat_setWidth]
    exact Nat.le_trans (Nat.mod_le _ _) hv
  case isFalse => cases h

/-- A configuration write is refused or puts a legal value in the register, and `maxPacketLen` beside the datarate (rule R241). -/
theorem writeCfg_configInv {c : ConfigRegs} {field : Nat} {value : BitVec 32} (h : writeCfg p s.cfg field value = some c)
    (hs : ConfigInv p s) : ConfigInv p { s with cfg := c } := by
  obtain ⟨hrate, hmin, hmax, hlen⟩ := hs
  match field, h with
  | 1, h | 2, h => cases h; exact ⟨hrate, hmin, hmax, hlen⟩
  | 3, h =>
    obtain ⟨v, hv, rfl⟩ := Option.map_eq_some_iff.1 h
    exact ⟨fun d hd => Option.some.inj hd ▸ datarateOfValue_mem hv, hmin, hmax, rfl⟩
  | 4, h =>
    obtain ⟨v, hv, rfl⟩ := Option.map_eq_some_iff.1 h
    exact ⟨hrate, fun d hd => Option.some.inj hd ▸ channelOfValue_le hv, hmax, hlen⟩
  | 5, h =>
    obtain ⟨v, hv, rfl⟩ := Option.map_eq_some_iff.1 h
    exact ⟨hrate, hmin, fun d hd => Option.some.inj hd ▸ channelOfValue_le hv, hlen⟩
  | 0, h | 6, h | 7, h | 8, h | 9, h | 10, h =>
    obtain ⟨v, -, rfl⟩ := Option.map_eq_some_iff.1 h
    exact ⟨hrate, hmin, hmax, hlen⟩
  | _ + 11, h => cases h

theorem configInv_keptInLoop : KeptInLoop p (ConfigInv p) where
  touch _ _ h hs := hs.congr (by rw [touch_frame h])
  fault _ f hs := by cases f <;> exact hs.congr rfl
  move _ _ hs := hs.congr rfl
  queue _ _ _ _ hs := hs.congr rfl
  hop _ _ _ _ _ h hs := hs.congr (by rw [hopEval_frame h])

/-- `CFG.SET` alone writes a configuration register. -/
theorem configInv_keptByStep : KeptByStep p (ConfigInv p) where
  touch := configInv_keptInLoop.touch
  event _ _ _ _ h hs := evStep_keeps configInv_keptInLoop.toKept h hs
  tick _ _ _ h hs := loopTick_keeps configInv_keptInLoop h hs
  hop := configInv_keptInLoop.hop
  configure _ _ _ _ hc hs := (writeCfg_configInv hc hs).congr (by rw [configured_frame])
  generate _ _ _ hs := hs.congr rfl
  post _ _ hs := hs.congr (by rw [evPost_frame])
  stream _ _ _ hs := hs.congr (by rw [setTxQueue_frame])
  plain _ _ _ _ _ hs := hs.congr rfl

/-! ### The stream queues -/

/-- The two stream queues keep to their capacity (rule R43). -/
def StreamsBounded (p : Params) (s : State) : Prop := ∀ id, (txQueue s id).length ≤ p.streamQueueCap

theorem StreamsBounded.congr (hs : StreamsBounded p s) (h : txQueue t = txQueue s) : StreamsBounded p t := fun id => h ▸ hs id

theorem setTxQueue_streamsBounded (id : StreamId) {q : List Byte} (hq : q.length ≤ p.streamQueueCap) (hs : StreamsBounded p s) :
    StreamsBounded p (setTxQueue s id q) := by
  intro id'
  match id, id' with
  | .primary, .primary => exact hq
  | .primary, .aux => exact hs .aux
  | .aux, .primary => exact hs .primary
  | .aux, .aux => exact hq

/-- `FRAME.BUILD` takes bytes from one stream, and adds none (rule R125). -/
theorem frameBuild_streamsBounded {f : BuiltFrame} (h : frameBuild p s = .ok (f, t)) (hs : StreamsBounded p s) :
    StreamsBounded p t := by
  obtain ⟨ppmSend, maxLen, dest, -, -, -, ⟨-, -, -, rfl⟩ | ⟨-, -, -, rfl⟩⟩ := frameBuild_cases h
  · exact hs.congr rfl
  · have hdrop : ∀ id n, ((txQueue s id).drop n).length ≤ p.streamQueueCap := fun id n => by
      rw [List.length_drop]
      exact Nat.le_trans (Nat.sub_le _ _) (hs id)
    have hflip : StreamsBounded p { s with streamToggle := !s.streamToggle } := hs.congr rfl
    exact (setTxQueue_streamsBounded _ (hdrop _ _) hflip).congr rfl

theorem touch_streamsBounded (h : Touch p s t) (hs : StreamsBounded p s) : StreamsBounded p t := by
  cases h
  case build f h => exact frameBuild_streamsBounded h hs
  case sync v h => exact hs.congr (by rw [clkSync_frame h]; rfl)
  case push m data _ => exact hs.congr (by rw [bufPush_frame]; rfl)
  all_goals exact hs.congr rfl

theorem streamsBounded_keptInLoop : KeptInLoop p (StreamsBounded p) where
  touch _ _ h hs := touch_streamsBounded h hs
  fault _ f hs := by cases f <;> exact hs.congr rfl
  move _ _ hs := hs.congr rfl
  queue _ _ _ _ hs := hs.congr rfl
  hop _ _ _ _ _ h hs := hs.congr (by rw [hopEval_frame h]; rfl)

/-- `STREAM.TX` accepts no more bytes than the queue has room for (rule R245). -/
theorem streamsBounded_keptByStep : KeptByStep p (StreamsBounded p) where
  touch := streamsBounded_keptInLoop.touch
  event _ _ _ _ h hs := evStep_keeps streamsBounded_keptInLoop.toKept h hs
  tick _ _ _ h hs := loopTick_keeps streamsBounded_keptInLoop h hs
  hop := streamsBounded_keptInLoop.hop
  configure _ _ _ _ _ hs := hs.congr (by rw [configured_frame]; rfl)
  generate _ _ _ hs := hs.congr rfl
  post _ _ hs := hs.congr (by rw [evPost_frame]; rfl)
  stream s id data hs := by
    have hroom := hs id
    refine setTxQueue_streamsBounded id ?_ hs
    rw [List.length_append, List.length_take]
    omega
  plain _ _ _ _ _ hs := hs.congr rfl

/-! ### The event queue -/

/-- The event queue keeps to its capacity, with one wake signal for each event (rule R25). -/
structure EventsCounted (p : Params) (s : State) : Prop where
  events : s.eventQueue.length ≤ p.eventQueueCap
  signal : s.wakeCount = s.eventQueue.length

theorem queueInv_iff : QueueInv p s ↔ EventsCounted p s ∧ StreamsBounded p s :=
  ⟨fun h => ⟨⟨h.events, h.signal⟩, fun id => match id with | .primary => h.primary | .aux => h.aux⟩,
    fun ⟨h, hq⟩ => ⟨h.events, h.signal, hq .primary, hq .aux⟩⟩

theorem EventsCounted.congr (hs : EventsCounted p s) (h : t.eventQueue = s.eventQueue ∧ t.wakeCount = s.wakeCount) :
    EventsCounted p t := by
  obtain ⟨hqueue, hwake⟩ := h
  exact ⟨hqueue ▸ hs.events, hqueue ▸ hwake ▸ hs.signal⟩

theorem evStep_events {e : Event} (h : evStep p e now s = .ok t) : t.eventQueue = s.eventQueue ∧ t.wakeCount = s.wakeCount := by
  obtain ⟨hqueue, hwake, -⟩ := evStep_frame h
  exact ⟨hqueue, hwake⟩

/-- The drain leaves no event behind (rule R216 step 1). -/
theorem drain_events {es : List Event} (h : drain p now es s = .ok t) (hs : s.eventQueue = es) :
    t.eventQueue = [] ∧ t.wakeCount = s.wakeCount := by
  induction es generalizing s with
  | nil => cases h; exact ⟨hs, rfl⟩
  | cons e es ih =>
    rw [drain_cons] at h
    obtain ⟨u, hu, h⟩ := bind_eq_ok.1 h
    have hevent : u.eventQueue = es ∧ u.wakeCount = s.wakeCount := by
      split at hu
      · cases hu; exact ⟨rfl, rfl⟩
      · exact evStep_events hu
    obtain ⟨hqueue, hwake⟩ := ih h hevent.1
    exact ⟨hqueue, hwake.trans hevent.2⟩

/-- With a wake signal for each event, steps 1 and 2 of the loop leave neither (rule R216). -/
theorem tickEvents_events (h : tickEvents p now s = .ok t) (hs : s.wakeCount = s.eventQueue.length) :
    t.eventQueue = [] ∧ t.wakeCount = 0 := by
  unfold tickEvents at h
  split at h
  · exact drain_events h rfl
  case isFalse hidle =>
    have hwake : s.wakeCount = 0 := Nat.eq_zero_of_not_pos hidle
    split at h
    · obtain ⟨hqueue, hwake'⟩ := evStep_events h
      exact ⟨hqueue, hwake'.trans hwake⟩
    · cases h; exact ⟨List.length_eq_zero_iff.1 (hs ▸ hwake), hwake⟩

theorem noEvents_kept : Kept p fun s => s.eventQueue = [] ∧ s.wakeCount = 0 where
  touch _ _ h hs := by rw [touch_frame h]; exact hs
  fault _ f hs := by cases f <;> exact hs
  move _ _ hs := hs

/-- Steps 3 to 5 of the loop post no event (rule R216). -/
theorem loopTick_events (h : loopTick p now s = .ok t) (hs : s.wakeCount = s.eventQueue.length) :
    t.eventQueue = [] ∧ t.wakeCount = 0 := by
  obtain ⟨u, hu, ht⟩ := loopTick_cases h
  have hevents := tickEvents_events hu hs
  obtain rfl | ⟨v, w, hv, hw, ht⟩ := ht
  · exact hevents
  · have hhop := tickHop_keeps noEvents_kept (fun _ _ _ _ h hs => by rw [hopEval_frame h]; exact hs) hv hevents
    exact tickTurn_keeps noEvents_kept ht (tickTxn_keeps noEvents_kept hw hhop)

/-- `EV.POST` adds an event and its signal, when there is room (rule R212). -/
theorem evPost_eventsCounted (e : Event) (hs : EventsCounted p s) : EventsCounted p (evPost p e s).2 := by
  rcases Nat.lt_or_ge s.eventQueue.length p.eventQueueCap with hroom | hfull
  · rw [evPost_free hroom]
    exact ⟨by simpa using hroom, by simpa using hs.signal⟩
  · rw [evPost_full hfull]; exact hs

/-- `LOOP.TICK` empties the queue with its signal; `EV.POST` and `CFG.SET` add to both. -/
theorem eventsCounted_keptByStep : KeptByStep p (EventsCounted p) where
  touch _ _ h hs := hs.congr (by rw [touch_frame h]; exact ⟨rfl, rfl⟩)
  event _ _ _ _ h hs := hs.congr (evStep_events h)
  tick s t _ h hs := by
    obtain ⟨hqueue, hwake⟩ := loopTick_events h hs.signal
    exact ⟨by rw [hqueue]; exact Nat.zero_le _, by rw [hqueue, hwake]; rfl⟩
  hop _ _ _ _ _ h hs := hs.congr (by rw [hopEval_frame h]; exact ⟨rfl, rfl⟩)
  configure _ _ _ _ _ hs := hs.congr (by rw [configured_frame]; exact ⟨rfl, rfl⟩)
  generate _ _ _ hs := hs.congr ⟨rfl, rfl⟩
  post s e hs := evPost_eventsCounted e hs
  stream _ _ _ hs := hs.congr (by rw [setTxQueue_frame]; exact ⟨rfl, rfl⟩)
  plain _ _ _ _ _ hs := hs.congr ⟨rfl, rfl⟩

/-- Settles O58: the registers, the event queue and the stream queues are each kept by every piece of a step. -/
theorem stepKeepsConfigAndQueues : Obligations.StepKeepsConfigAndQueues := by
  intro s t hcfg hqueues h
  obtain ⟨hevents, hstreams⟩ := queueInv_iff.1 hqueues
  exact ⟨step_keeps configInv_keptByStep h hcfg,
    queueInv_iff.2 ⟨step_keeps eventsCounted_keptByStep h hevents, step_keeps streamsBounded_keptByStep h hstreams⟩⟩

end Sys2Proof.Machine
end

section
/-! SUPPORT. Which operations write which field of the state (10_state.md rules R24 to R47). -/

namespace Sys2Proof.Machine

variable {p : Params} {s t u : State} {now : Tick}

/-- What neither an event with its cascade nor the driving loop writes; and the trace only grows. -/
structure LoopFrame (s t : State) : Prop where
  requests : t.requests = s.requests
  cfg : t.cfg = s.cfg
  channelTable : t.channelTable = s.channelTable
  channelCount : t.channelCount = s.channelCount
  ppmTx : t.ppmTx = s.ppmTx
  trace : ∃ more, t.trace = s.trace ++ more

theorem LoopFrame.refl (s : State) : LoopFrame s s := ⟨rfl, rfl, rfl, rfl, rfl, [], (List.append_nil _).symm⟩

/-- A transport call is added at the end of the trace (rule R252); no other single write touches it. -/
theorem touch_trace (h : Touch p s t) : ∃ more, t.trace = s.trace ++ more := by
  cases h
  case emit o => exact ⟨[o], rfl⟩
  case sync v h => rw [clkSync_frame h]; exact (LoopFrame.refl s).trace
  case push m data _ => rw [bufPush_frame]; exact (LoopFrame.refl s).trace
  case build f h => rw [frameBuild_frame h]; exact (LoopFrame.refl s).trace
  all_goals exact (LoopFrame.refl s).trace

theorem loopFrame_keptInLoop (s : State) : KeptInLoop p (LoopFrame s) where
  touch t u h hs := by
    obtain ⟨more, hmore⟩ := hs.trace
    obtain ⟨more', hmore'⟩ := touch_trace h
    refine ⟨?_, ?_, ?_, ?_, ?_, more ++ more', by rw [hmore', hmore, List.append_assoc]⟩
    all_goals rw [touch_frame h]
    exacts [hs.requests, hs.cfg, hs.channelTable, hs.channelCount, hs.ppmTx]
  fault _ f hs := by
    obtain ⟨hreq, hcfg, htable, hcount, htx, htrace⟩ := hs
    cases f <;> exact ⟨hreq, hcfg, htable, hcount, htx, htrace⟩
  move _ _ hs := ⟨hs.requests, hs.cfg, hs.channelTable, hs.channelCount, hs.ppmTx, hs.trace⟩
  queue _ _ _ _ hs := ⟨hs.requests, hs.cfg, hs.channelTable, hs.channelCount, hs.ppmTx, hs.trace⟩
  hop _ _ _ _ _ h hs := by
    rw [hopEval_frame h]
    exact ⟨hs.requests, hs.cfg, hs.channelTable, hs.channelCount, hs.ppmTx, hs.trace⟩

/-- Settles O54: each operation by what its effect writes, the two sequencer operations by what all their pieces leave alone. -/
theorem writersOfState : Obligations.WritersOfState := by
  intro i s t hexec
  obtain ⟨u, r, h, rfl⟩ := runAt_effect (exec_eq_next.1 hexec)
  cases i with
  | ppmGet _ | ppmEnc _ | ppmDec _ | ppmPack _ | csum _ | hdrBuild _ _ | hdrParse _ | chAt _ | clkTime _ | slotTurn _
  | stRead | stIsconn | toTxn _ | toSup _ => cases h; simp
  | init | bufReset | stContact _ | txnOpen _ | txnClose => cases h; simp
  | bufPop _ => cases h; simp [bufPop_snd]
  | statsGet _ _ | stTochk _ => cases h; simp [stTochk]
  | ppmSet _ _ => cases h.2; simp
  | ppmUnpack _ _ => obtain ⟨f, rfl⟩ := h; simp
  | stPush _ => obtain ⟨code, rfl⟩ := h; simp
  | chGen => obtain ⟨inputs, -, rfl⟩ := h; simp [chGen]
  | cfgSet field value =>
    obtain ⟨c, -, (hu : u = postReinit _ (configured _ field c s))⟩ := h
    rw [hu, postReinit_frame, configured_frame]
    simp
  | streamTx _ _ => obtain ⟨id, -, rfl⟩ := h; rw [setTxQueue_frame]; simp
  | bufPush data => obtain ⟨m, -, rfl⟩ := h; rw [bufPush_frame]; simp
  | evPost _ => obtain ⟨e, -, rfl⟩ := h; rw [evPost_frame]; simp
  | frameParse len => obtain ⟨f, hf⟩ := h; rw [frameParse_frame hf]; simp
  | frameBuild => obtain ⟨f, hf⟩ := h; rw [frameBuild_frame hf]; simp
  | clkSync => obtain ⟨v, hv⟩ := h; rw [clkSync_frame hv]; simp
  | hopEval now => obtain ⟨c, changed, hc⟩ := h; rw [hopEval_frame hc]; simp
  | evStep event now =>
    obtain ⟨e, -, he⟩ := h
    have hf := evStep_keeps (loopFrame_keptInLoop s).toKept he (LoopFrame.refl s)
    obtain ⟨hqueue, hwake, hlast, -, -, -, hindex, -⟩ := evStep_frame he
    simp [hf.requests, hf.cfg, hf.channelTable, hf.channelCount, hf.ppmTx, hf.trace, hqueue, hwake, hlast, hindex]
  | loopTick now =>
    have hf := loopTick_keeps (loopFrame_keptInLoop s) h (LoopFrame.refl s)
    simp [hf.requests, hf.cfg, hf.channelTable, hf.channelCount, hf.ppmTx, hf.trace]

end Sys2Proof.Machine
end

section
/-! SUPPORT. The channel table's invariants (10_state.md rules R33, R35, 20_memory.md rule R74). -/

namespace Sys2Proof.Machine

variable {p : Params} {s t : State}

/-- The table is well-formed, and the one the configuration registers give. -/
structure TableCoherent (p : Params) (s : State) : Prop where
  wellFormed : TableInv s
  matching : TableMatches p s

/-! ### States with the same table and the same inputs to it -/

theorem tableEntry_congr (h : t.channelTable = s.channelTable) (k : Nat) : tableEntry t k = tableEntry s k := by
  rw [tableEntry, tableEntry, h]

theorem TableInv.congr (hs : TableInv s) (htable : t.channelTable = s.channelTable) (hcount : t.channelCount = s.channelCount)
    (hindex : t.channelIndex.val < max s.channelCount.val 1) : TableInv t where
  even := by rw [hcount]; exact hs.even
  index := by rw [hcount]; exact hindex
  distinct := by simpa only [tableEntry_congr htable, hcount] using hs.distinct
  range := by simpa only [tableEntry_congr htable, hcount] using hs.range

theorem TableMatches.congr (hs : TableMatches p s) (hinputs : tableInputs t.cfg = tableInputs s.cfg)
    (htable : t.channelTable = s.channelTable) (hcount : t.channelCount = s.channelCount) : TableMatches p t := by
  simpa only [TableMatches, hinputs, tableEntry_congr htable, hcount] using hs

/-- A write that leaves the inputs and the table alone may move the index inside the table (rule R35). -/
theorem TableCoherent.move_index (hs : TableCoherent p s) (hinputs : tableInputs t.cfg = tableInputs s.cfg)
    (htable : t.channelTable = s.channelTable) (hcount : t.channelCount = s.channelCount)
    (hindex : t.channelIndex.val < max s.channelCount.val 1) : TableCoherent p t :=
  ⟨hs.wellFormed.congr htable hcount hindex, hs.matching.congr hinputs htable hcount⟩

theorem TableCoherent.congr (hs : TableCoherent p s) (h : tableInputs t.cfg = tableInputs s.cfg ∧
    t.channelTable = s.channelTable ∧ t.channelCount = s.channelCount ∧ t.channelIndex = s.channelIndex) : TableCoherent p t := by
  obtain ⟨hinputs, htable, hcount, hindex⟩ := h
  exact hs.move_index hinputs htable hcount (hindex ▸ hs.wellFormed.index)

/-! ### The writers of the table and of its inputs -/

/-- `CH.GEN` makes the table of the registers it has read (rule R150). -/
theorem chGen_tableCoherent {inputs : TableInputs} (h : tableInputs s.cfg = some inputs) : TableCoherent p (chGen p inputs s) := by
  have hinputs : tableInputs (chGen p inputs s).cfg = some inputs := h
  have hmatches : TableMatches p (chGen p inputs s) := by
    simp only [TableMatches, hinputs]
    exact ⟨rfl, fun k hk => (chGen_entry p inputs s k hk).1⟩
  exact ⟨chGen_inv p inputs s, hmatches⟩

/-- An empty table is the table of registers one of which is unset (rule R241). -/
theorem emptyTable_tableCoherent (hinputs : tableInputs s.cfg = none) (hcount : s.channelCount = 0) (hindex : s.channelIndex = 0) :
    TableCoherent p s := by
  have hempty : ∀ k, ¬ k < s.channelCount.val := fun k => by simp [hcount]
  have hinv : TableInv s :=
    { even := by simp [hcount]
      index := by simp [hcount, hindex]
      distinct := fun _ k _ hk => absurd hk (hempty k)
      range := fun k hk => absurd hk (hempty k) }
  exact ⟨hinv, by simpa only [TableMatches, hinputs] using hcount⟩

/-- The regeneration of `CFG.SET` needs nothing of the old table (rule R241). -/
theorem regenerate_tableCoherent (p : Params) (s : State) : TableCoherent p (regenerate p s) := by
  unfold regenerate
  split
  case h_1 inputs h => exact chGen_tableCoherent h
  case h_2 h => exact emptyTable_tableCoherent h rfl rfl

/-- Registers 6 to 10 are no input of the table, so `CFG.SET` need not regenerate it for them (rules R150, R241). -/
theorem writeCfg_tableInputs {c c' : ConfigRegs} {field : Nat} {value : BitVec 32} (hfield : ¬ field ≤ 5)
    (h : writeCfg p c field value = some c') : tableInputs c' = tableInputs c := by
  match field, hfield, h with
  | 6, _, h | 7, _, h | 8, _, h | 9, _, h | 10, _, h =>
    obtain ⟨v, -, rfl⟩ := Option.map_eq_some_iff.1 h
    rfl
  | _ + 11, _, h => cases h

/-- `CFG.SET` regenerates the table when it has written one of its inputs (rule R74). -/
theorem configured_tableCoherent {c : ConfigRegs} {field : Nat} {value : BitVec 32} (h : writeCfg p s.cfg field value = some c)
    (hs : TableCoherent p s) : TableCoherent p (configured p field c s) := by
  unfold configured
  split
  case isTrue => exact regenerate_tableCoherent p _
  case isFalse hfield => exact hs.congr ⟨writeCfg_tableInputs hfield h, rfl, rfl, rfl⟩

/-- `HOP.EVAL` leaves the index inside a table that is not empty (rules R35, R160). -/
theorem hopEval_tableCoherent {now : Tick} {c : BitVec 8} {changed : Bool} (h : hopEval p now s = .ok (c, changed, t))
    (hs : TableCoherent p s) : TableCoherent p t := by
  obtain ⟨idx, conn, rfl, hidx, -⟩ := hopEval_cases h
  exact hs.move_index rfl rfl rfl (lt_max_of_lt_left hidx)

/-! ### Every step -/

theorem tableCoherent_keptInLoop : KeptInLoop p (TableCoherent p) where
  touch _ _ h hs := hs.congr (by rw [touch_frame h]; exact ⟨rfl, rfl, rfl, rfl⟩)
  fault _ f hs := by cases f <;> exact hs.congr ⟨rfl, rfl, rfl, rfl⟩
  move _ _ hs := hs.congr ⟨rfl, rfl, rfl, rfl⟩
  queue _ _ _ _ hs := hs.congr ⟨rfl, rfl, rfl, rfl⟩
  hop _ _ _ _ _ h hs := hopEval_tableCoherent h hs

/-- `CFG.SET` and `CH.GEN` alone write the table, and `HOP.EVAL` and the driving loop move its index. -/
theorem tableCoherent_keptByStep : KeptByStep p (TableCoherent p) where
  touch := tableCoherent_keptInLoop.touch
  event _ _ _ _ h hs := evStep_keeps tableCoherent_keptInLoop.toKept h hs
  tick _ _ _ h hs := loopTick_keeps tableCoherent_keptInLoop h hs
  hop := tableCoherent_keptInLoop.hop
  configure _ _ _ _ h hs := configured_tableCoherent h hs
  generate _ _ h _ := chGen_tableCoherent h
  post _ _ hs := hs.congr (by rw [evPost_frame]; exact ⟨rfl, rfl, rfl, rfl⟩)
  stream _ _ _ hs := hs.congr (by rw [setTxQueue_frame]; exact ⟨rfl, rfl, rfl, rfl⟩)
  plain _ _ _ _ _ hs := hs.congr ⟨rfl, rfl, rfl, rfl⟩

/-- Settles O57: the table is made anew from the registers whenever one of its inputs is written, and no other piece of a step writes
the table or moves its index outside it. -/
theorem stepKeepsTable : Obligations.StepKeepsTable := by
  intro s t htable hmatches h
  obtain ⟨htable', hmatches'⟩ := step_keeps tableCoherent_keptByStep h ⟨htable, hmatches⟩
  exact ⟨htable', hmatches'⟩

end Sys2Proof.Machine
end

section
/-! SUPPORT. The decoder and the encoder: the statements of 30_encoding.md section 5. -/

namespace Sys2Proof

/-- The operation codes of rule R98, a line for each group of its table. -/
def operationCodes : List Nat :=
  [0x01, 0x02, 0x03, 0x04, 0x05, 0x06] ++
  [0x10, 0x11, 0x12, 0x13, 0x14, 0x15, 0x16, 0x17, 0x18, 0x19, 0x1A, 0x1B] ++
  [0x20, 0x21, 0x22, 0x23, 0x24, 0x25] ++
  [0x30, 0x31, 0x32, 0x33, 0x34, 0x35, 0x36, 0x37, 0x38] ++
  [0x40, 0x41, 0x42]

theorem opcode_mem_operationCodes (i : Instr) : i.opcode.toNat ∈ operationCodes := by
  cases i <;> simp [Instr.opcode, operationCodes]

/-- What decoding can answer: an operation of the request's own code, or the rejection of that code (rules R95, R98). -/
theorem decode_cases (r : Request) :
    (∃ i, decode r = .ok i ∧ r.op = i.opcode) ∨ decode r = .error (.badOperation r.op) := by
  generalize hd : decode r = d
  unfold decode at hd
  split at hd
  case h_37 => exact .inr hd.symm
  all_goals
    next hop => exact .inl ⟨_, hd.symm, BitVec.eq_of_toNat_eq hop⟩

theorem op_eq_opcode_of_decode {r : Request} {i : Instr} (h : decode r = .ok i) : r.op = i.opcode := by
  obtain ⟨j, hj, hop⟩ | herr := decode_cases r
  · cases hj.symm.trans h
    exact hop
  · cases herr.symm.trans h

theorem decode_of_op_not_mem {r : Request} (h : r.op.toNat ∉ operationCodes) : decode r = .error (.badOperation r.op) := by
  obtain ⟨i, -, hop⟩ | herr := decode_cases r
  · exact absurd (hop ▸ opcode_mem_operationCodes i) h
  · exact herr

/-- Each row's decoding reads the ports on which its encoding puts the operands (rules R96, R98). -/
@[simp] theorem decode_encode (i : Instr) : decode (encode i) = .ok i := by
  cases i <;> rfl

theorem encode_injective : Function.Injective encode := fun i j h =>
  Except.ok.inj <| calc
    Except.ok i = decode (encode i) := (decode_encode i).symm
    _ = decode (encode j) := congrArg decode h
    _ = .ok j := decode_encode j

/-- The ports an operation does not list play no part in its decoding: with the rest at rest the request is the operation's encoding. -/
theorem decode_with_onPorts {r : Request} {i : Instr} (h : decode r = .ok i) : decode { r with ports := i.onPorts } = .ok i := by
  have hencode : { r with ports := i.onPorts } = encode i := by
    rw [op_eq_opcode_of_decode h, encode]
  rw [hencode, decode_encode]

/-- Settles O3: decoding inverts encoding, so encoding is injective; and a request that decodes has its operation's code. -/
theorem encodeDecodeRoundTrip : Obligations.EncodeDecodeRoundTrip :=
  ⟨decode_encode, fun _ _ h => ⟨op_eq_opcode_of_decode h, decode_with_onPorts h⟩, fun _ _ h => encode_injective h⟩

/-- Settles O2: the 36 rows are the decoder's own, and a code outside their groups is no operation's code. -/
theorem decodeOperationMap : Obligations.DecodeOperationMap := by
  intro q
  iterate 36 refine ⟨rfl, ?_⟩
  intro op hop
  have hcode : op.toNat ∉ operationCodes := by
    simpa only [operationCodes, List.mem_append, not_or, and_assoc] using hop
  exact decode_of_op_not_mem hcode

end Sys2Proof
end

section
/-! SUPPORT. The PPM map and its laws (40_packet_codec.md section 1). -/

namespace Sys2Proof.Machine

variable {p : Params} {s : State} {i : Instr} {f : Fault}

/-- The refusing companion of `exec_eq_next`. -/
theorem exec_eq_fault : exec i s = .fault f ↔ runAt Config.params i s = .error f := by
  rw [exec_eq, finish_eq_fault]

/-! ### The ends of the map (rules R110, R111) -/

theorem ppmCodeOf_of_le_min {us : BitVec 16} (h : us.toNat ≤ p.ppmMinUs) : ppmCodeOf p (.valid us) = 1 := by
  have hrange := p.ppmMin_lt_max
  have hoffset : clampNat us.toNat p.ppmMinUs p.ppmMaxUs - p.ppmMinUs = 0 := by unfold clampNat; omega
  apply BitVec.eq_of_toNat_eq
  rw [ppmCodeOf_toNat, hoffset, Nat.zero_mul, Nat.zero_div]
  rfl

theorem ppmCodeOf_of_max_le {us : BitVec 16} (h : p.ppmMaxUs ≤ us.toNat) : ppmCodeOf p (.valid us) = 511 := by
  have hrange := p.ppmMin_lt_max
  have hoffset : clampNat us.toNat p.ppmMinUs p.ppmMaxUs - p.ppmMinUs = ppmSpan p := by unfold clampNat ppmSpan; omega
  apply BitVec.eq_of_toNat_eq
  rw [ppmCodeOf_toNat, hoffset, Nat.mul_div_cancel_left _ (ppmSpan_pos p)]
  rfl

theorem ppmCodeOf_pos (us : BitVec 16) : 1 ≤ (ppmCodeOf p (.valid us)).toNat := by
  rw [ppmCodeOf_toNat]; exact Nat.le_add_right 1 _

theorem ppmCodeOf_ne_zero (us : BitVec 16) : ppmCodeOf p (.valid us) ≠ 0 := by
  intro h
  have hpos := ppmCodeOf_pos (p := p) us
  rw [h] at hpos
  exact absurd hpos (by decide)

@[simp] theorem ppmSampleOf_zero : ppmSampleOf p 0 = .timeout := if_pos rfl

/-- Settles O4: `ppmCodeOf_toNat` and `ppmSampleOf_valid` give the two maps as numbers; their ends are the offsets 0 and the span. -/
theorem ppmValueMaps : Obligations.PpmValueMaps := by
  intro s
  refine ⟨?noInput, ?encode, ?reserved, ?decode⟩
  case noInput => exact exec_eq_next.2 rfl
  case encode =>
    intro us
    exact ⟨_, exec_eq_next.2 rfl, ppmCodeOf_toNat _ us, ppmCodeOf_pos us, ppmCodeOf_of_le_min, ppmCodeOf_of_max_le⟩
  case reserved => exact exec_eq_next.2 rfl
  case decode =>
    intro code hcode
    obtain ⟨us, hsample, hus⟩ := ppmSampleOf_valid Config.params hcode
    refine ⟨us, exec_eq_next.2 ?runs, hus, ?first, ?last⟩
    case runs => rw [← hsample]; rfl
    case first =>
      rintro rfl
      rw [hus, show (1 : BitVec 9).toNat - 1 = 0 from rfl, Nat.zero_mul, Nat.zero_div, Nat.add_zero]
    case last =>
      rintro rfl
      have hrange := Config.params.ppmMin_lt_max
      rw [hus, show (511 : BitVec 9).toNat - 1 = ppmCodeSteps from rfl, Nat.mul_div_cancel_left _ (by decide)]
      unfold ppmSpan
      omega

/-! ### There and back (rule R112) -/

/-- The offset `x` from `PPM_MIN_US` in a span of `d` microseconds, coded in 510 steps and decoded again. -/
def requantized (d x : Nat) : Nat := x * 510 / d * d / 510

theorem requantized_le (d x : Nat) : requantized d x ≤ x :=
  Nat.div_le_of_le_mul (by rw [Nat.mul_comm 510]; exact Nat.div_mul_le_self _ _)

/-- Each of the two floors loses less than one of its units: `1 / 510` of the span, and one microsecond. -/
theorem requantized_error {d : Nat} (hd : 0 < d) (x : Nat) : (x - requantized d x) * 510 < d + 510 := by
  have hcode : x * 510 < x * 510 / d * d + d := Nat.lt_div_mul_add hd
  have hdecode : x * 510 / d * d < requantized d x * 510 + 510 := Nat.lt_div_mul_add (by decide)
  rw [Nat.sub_mul]
  exact Nat.sub_lt_left_of_lt_add (Nat.mul_le_mul_right _ (requantized_le d x)) (by linarith)

/-- When 510 divides the span a step is a whole number `q` of microseconds, and only the remainder below a step is lost. -/
theorem requantized_mul (q x : Nat) : requantized (510 * q) x = x / q * q := by
  rw [requantized, Nat.mul_comm x, Nat.mul_div_mul_left _ _ (by decide), Nat.mul_left_comm, Nat.mul_div_cancel_left _ (by decide)]

theorem requantized_error_of_dvd {d : Nat} (hd : 0 < d) (h : 510 ∣ d) (x : Nat) : x - requantized d x ≤ d / 510 - 1 := by
  obtain ⟨q, rfl⟩ := h
  have hmod := Nat.mod_lt x (show 0 < q by omega)
  have hsplit := Nat.div_add_mod' x q
  rw [requantized_mul, Nat.mul_div_cancel_left _ (by decide)]
  omega

/-- A sample in range comes back as its offset requantized. -/
theorem ppmSampleOf_ppmCodeOf {v : BitVec 16} (hmin : p.ppmMinUs ≤ v.toNat) (hmax : v.toNat ≤ p.ppmMaxUs) :
    ∃ v' : BitVec 16, ppmSampleOf p (ppmCodeOf p (.valid v)) = .valid v' ∧
      v'.toNat = p.ppmMinUs + requantized (ppmSpan p) (v.toNat - p.ppmMinUs) := by
  have hclamp : clampNat v.toNat p.ppmMinUs p.ppmMaxUs = v.toNat := by unfold clampNat; omega
  obtain ⟨v', hsample, hv'⟩ := ppmSampleOf_valid p (ppmCodeOf_ne_zero (p := p) v)
  refine ⟨v', hsample, ?_⟩
  rw [hv', ppmCodeOf_toNat, hclamp, Nat.add_sub_cancel_left]
  rfl

/-- When 510 divides the span every code of a sample decodes to the first microsecond of its step, which has that code again. -/
theorem ppmCodeOf_ppmSampleOf (h : 510 ∣ ppmSpan p) {c : BitVec 9} (hc : c ≠ 0) :
    ∃ us, ppmSampleOf p c = .valid us ∧ ppmCodeOf p (.valid us) = c := by
  obtain ⟨us, hsample, hus⟩ := ppmSampleOf_valid p hc
  obtain ⟨q, hq⟩ := h
  have hspan := ppmSpan_pos p
  have hmax := ppmUs_le p c
  have hcpos : 0 < c.toNat := Nat.pos_of_ne_zero fun h0 => hc (BitVec.eq_of_toNat_eq h0)
  have hoffset : us.toNat = p.ppmMinUs + (c.toNat - 1) * q := by
    rw [hus, hq, Nat.mul_left_comm]
    exact congrArg _ (Nat.mul_div_cancel_left _ (by decide))
  have hclamp : clampNat us.toNat p.ppmMinUs p.ppmMaxUs - p.ppmMinUs = (c.toNat - 1) * q := by
    unfold clampNat; omega
  refine ⟨us, hsample, BitVec.eq_of_toNat_eq ?_⟩
  rw [ppmCodeOf_toNat, hclamp, hq, Nat.mul_comm _ ppmCodeSteps, show ppmCodeSteps = 510 from rfl,
    Nat.mul_div_mul_left _ _ (by decide), Nat.mul_div_cancel _ (by omega)]
  omega

theorem ppmCodeOf_mono {u v : BitVec 16} (h : u.toNat ≤ v.toNat) :
    (ppmCodeOf p (.valid u)).toNat ≤ (ppmCodeOf p (.valid v)).toNat := by
  have hclamp : clampNat u.toNat p.ppmMinUs p.ppmMaxUs ≤ clampNat v.toNat p.ppmMinUs p.ppmMaxUs := by unfold clampNat; omega
  rw [ppmCodeOf_toNat, ppmCodeOf_toNat]
  gcongr

/-- Settles O5: the laws of `requantized` for the offset of a sample in range. -/
theorem ppmRoundTripLaws : Obligations.PpmRoundTripLaws := by
  intro p
  have hspan := ppmSpan_pos p
  refine ⟨?error, ?exact, ?sentinel, ?monotone⟩
  case error =>
    intro v hmin hmax
    obtain ⟨v', hsample, hv'⟩ := ppmSampleOf_ppmCodeOf hmin hmax
    have hle := requantized_le (ppmSpan p) (v.toNat - p.ppmMinUs)
    have hlost : v.toNat - v'.toNat = (v.toNat - p.ppmMinUs) - requantized (ppmSpan p) (v.toNat - p.ppmMinUs) := by omega
    refine ⟨v', hsample, by omega, ?_⟩
    rw [hlost]
    exact ⟨requantized_error hspan _, fun h => requantized_error_of_dvd hspan h _⟩
  case exact => exact fun h c hc => ppmCodeOf_ppmSampleOf h hc
  case sentinel => exact ppmSampleOf_zero
  case monotone => exact fun u v h => ppmCodeOf_mono h

end Sys2Proof.Machine
end

section
/-! SUPPORT. The PPM sub-frame and the checksum (40_packet_codec.md section 2). -/

namespace Sys2Proof.Machine

variable {p : Params} {s : State}

/-! ### Packing (rule R115) -/

/-- Bit `i` of the first byte is bit 0 of channel `i`'s code, and 0 where there is no channel `i`. -/
theorem ppmPack_lsb_bit (p : Params) (tx : Vector TxSample 8) (w : Bool) (i : Nat) :
    ((ppmPack p tx w).getD 0 0).getLsbD i = (((ppmCodes p tx)[i]?).getD 0).getLsbD 0 := by
  have hlt : lsbNat (ppmCodes p tx) < 2 ^ 8 := by
    refine Nat.lt_of_lt_of_le (lsbNat_lt _) (Nat.pow_le_pow_right (by decide) ?_)
    rw [ppmCodes_length]; exact (numPpmCh_le p).2
  rw [ppmPack_lsb, BitVec.getLsbD, BitVec.toNat_ofNat, Nat.mod_eq_of_lt hlt, Nat.testBit_eq_decide_div_mod_eq, lsbNat_bit,
    BitVec.getLsbD, Nat.testBit_zero]

theorem ppmPack_checksum (p : Params) (tx : Vector TxSample 8) :
    (ppmPack p tx true).getD (1 + p.numPpmCh) 0 = checksum ((ppmPack p tx true).take (1 + p.numPpmCh)) := by
  have h := checksumOk_pack p tx
  rw [checksumOk, decide_eq_true_eq] at h
  exact h.symm

/-- Settles O6: `ppmPack_lsb_bit`, `ppmPack_channel` and `ppmPack_checksum` are the three kinds of byte. -/
theorem ppmPackLayout : Obligations.PpmPackLayout := by
  intro withCsum s
  refine ⟨ppmPack Config.params s.ppmTx withCsum, exec_eq_next.2 rfl, ppmPack_length _ _ _, ?channels, ?unused, ?checksum⟩
  case channels =>
    intro i tx hi htx
    have hcode : (ppmCodes Config.params s.ppmTx)[i]? = some (ppmCodeOf Config.params tx) := by
      rw [ppmCodes_getElem? _ _ i hi, htx]; rfl
    obtain ⟨_, hget⟩ := List.getElem?_eq_some_iff.1 hcode
    rw [ppmPack_lsb_bit, hcode, ppmPack_channel _ _ _ i hi, hget, channelByte_toNat]
    exact ⟨rfl, rfl⟩
  case unused =>
    intro i hi
    rw [ppmPack_lsb_bit, List.getElem?_eq_none (by rwa [ppmCodes_length])]
    rfl
  case checksum =>
    rintro rfl
    rw [ppmPack_checksum, checksum_toNat]

/-! ### Unpacking (rule R116) -/

/-- `PPM.UNPACK` on bytes of the right length answers and writes the received samples only. -/
theorem runAt_ppmUnpack {bytes : List Byte} {w : Bool} (h : bytes.length = subframeLen p w) :
    runAt p (.ppmUnpack bytes w) s = .ok { s with
      ppmRx := (ppmUnpack p bytes w s).2.ppmRx, result := .ok (ppmUnpack p bytes w s).1 } := by
  change runPpmUnpack p bytes w s = _
  rw [runPpmUnpack, if_neg (not_not.2 h)]
  exact congrArg (fun u => Except.ok (u.withResult (.ok (ppmUnpack p bytes w s).1))) (ppmUnpack_state p bytes w s)

theorem checksumOk_eq_false {bytes : List Byte} : checksumOk p bytes = false ↔
    byteSum (bytes.take (1 + p.numPpmCh)) % 256 ≠ (bytes.getD (1 + p.numPpmCh) 0).toNat := by
  rw [checksumOk, decide_eq_false_iff_not, ← BitVec.toNat_inj, checksum_toNat]

theorem ppmUnpack_fst (p : Params) (bytes : List Byte) (w : Bool) (s : State) :
    (ppmUnpack p bytes w s).1 = !(w && !checksumOk p bytes) := by
  unfold ppmUnpack
  cases w && !checksumOk p bytes <;> rfl

/-- Settles O7: the sample of a channel is its code put together as a number (`assembleCode_eq`). -/
theorem ppmUnpackWritesSamples : Obligations.PpmUnpackWritesSamples := by
  intro bytes withCsum s
  refine ⟨?refused, ?answered⟩
  case refused => exact fun h => exec_eq_fault.2 (if_pos h)
  case answered =>
    intro h
    refine ⟨_, _, exec_eq_next.2 (runAt_ppmUnpack h), ?_, ?_⟩
    · rw [← checksumOk_eq_false, ppmUnpack_fst]
      simp
    · intro i hi
      rw [ppmUnpack_getElem, subframeSample, assembleCode_eq]
      by_cases hch : i < Config.params.numPpmCh
      · rw [if_pos hch, if_neg (Nat.not_le.2 hch)]
      · rw [if_neg hch, if_pos (Nat.not_lt.1 hch)]

/-- Settles O8: the packed bytes have the length `PPM.UNPACK` asks for, and `ppmUnpack_pack` says what they give. -/
theorem ppmPackThenUnpack : Obligations.PpmPackThenUnpack := by
  intro withCsum s t
  obtain ⟨hok, hsamples⟩ := ppmUnpack_pack Config.params s.ppmTx withCsum t
  have hrun := runAt_ppmUnpack (s := t) (ppmPack_length Config.params s.ppmTx withCsum)
  rw [hok] at hrun
  exact ⟨_, _, exec_eq_next.2 rfl, exec_eq_next.2 hrun, hsamples⟩

/-- Settles O9, by `checksum_eq`. -/
theorem checksumIsByteSum : Obligations.ChecksumIsByteSum := by
  intro bytes s h
  rw [← checksum_eq]
  exact exec_eq_next.2 (if_neg (Nat.not_lt.2 h))

end Sys2Proof.Machine
end

section
/-! SUPPORT. The header (40_packet_codec.md section 3). -/

namespace Sys2Proof.Machine

theorem destIdBytes_eq (d : Word32) : destIdBytes d = [BitVec.ofNat 8 (d.toNat / 16777216), BitVec.ofNat 8 (d.toNat / 65536),
    BitVec.ofNat 8 (d.toNat / 256), BitVec.ofNat 8 d.toNat] := by
  simp only [destIdBytes, BitVec.extractLsb', Nat.shiftRight_eq_div_pow, Nat.reducePow, Nat.pow_zero, Nat.div_one]

theorem toNat_append_byte {n : Nat} (x : BitVec n) (b : Byte) : (x ++ b).toNat = x.toNat * 256 + b.toNat := by
  rw [BitVec.toNat_append, ← Nat.shiftLeft_add_eq_or_of_lt b.isLt, Nat.shiftLeft_eq]

/-- The four bytes stand side by side, so the disjunction of the shifted bytes is their concatenation. -/
theorem destIdOfBytes_eq_append (b0 b1 b2 b3 : Byte) : destIdOfBytes b0 b1 b2 b3 = b0 ++ b1 ++ b2 ++ b3 := by
  ext i hi
  simp only [destIdOfBytes, BitVec.getElem_or, BitVec.getElem_shiftLeft, BitVec.getElem_setWidth]
  grind

theorem destIdOfBytes_toNat (b0 b1 b2 b3 : Byte) :
    (destIdOfBytes b0 b1 b2 b3).toNat = b0.toNat * 16777216 + b1.toNat * 65536 + b2.toNat * 256 + b3.toNat := by
  rw [destIdOfBytes_eq_append, toNat_append_byte, toNat_append_byte, toNat_append_byte]
  omega

/-- The four bytes of an ID give it back (rules R120, R121). -/
theorem destIdOfBytes_destIdBytes (d : Word32) : destIdOfBytes (d.extractLsb' 24 8) (d.extractLsb' 16 8) (d.extractLsb' 8 8)
    (d.extractLsb' 0 8) = d := by
  apply BitVec.eq_of_toNat_eq
  have hd := d.isLt
  simp only [destIdOfBytes_toNat, BitVec.extractLsb'_toNat, Nat.shiftRight_eq_div_pow]
  omega

theorem destIdBytes_destIdOfBytes (b0 b1 b2 b3 : Byte) : destIdBytes (destIdOfBytes b0 b1 b2 b3) = [b0, b1, b2, b3] := by
  have h0 := b0.isLt
  have h1 := b1.isLt
  have h2 := b2.isLt
  have h3 := b3.isLt
  simp only [destIdBytes_eq, destIdOfBytes_toNat, List.cons.injEq, and_true]
  refine ⟨?_, ?_, ?_, ?_⟩ <;> apply BitVec.eq_of_toNat_eq <;> rw [BitVec.toNat_ofNat] <;> omega

theorem length_eq_five {bytes : List Byte} (h : bytes.length = 5) : ∃ b0 b1 b2 b3 len, bytes = [b0, b1, b2, b3, len] := by
  match bytes, h with
  | [b0, b1, b2, b3, len], _ => exact ⟨b0, b1, b2, b3, len, rfl⟩

/-- The refusal of rule R121. -/
theorem runHdrParse_of_length_ne {bytes : List Byte} {s : State} (h : bytes.length ≠ 5) :
    runHdrParse bytes s = .error .badOperand := by
  unfold runHdrParse
  split
  · exact absurd rfl h
  · rfl

/-- Settles O10: the field equations as numbers, then `destIdOfBytes_destIdBytes` and its converse. -/
theorem headerFields : Obligations.HeaderFields := by
  intro s
  refine ⟨?build, ?parse, ?refused, ?parseBuilt, ?buildParsed⟩
  case build =>
    intro destId len
    refine exec_eq_next.2 ?_
    change runHdrBuild destId len s = _
    rw [runHdrBuild, destIdBytes_eq]
    rfl
  case parse =>
    intro b0 b1 b2 b3 len
    refine exec_eq_next.2 ?_
    rw [← destIdOfBytes_toNat, BitVec.ofNat_toNat, BitVec.setWidth_eq]
    rfl
  case refused => exact fun bytes h => exec_eq_fault.2 (runHdrParse_of_length_ne h)
  case parseBuilt =>
    intro destId len
    refine ⟨_, exec_eq_next.2 rfl, exec_eq_next.2 ?_⟩
    change Except.ok (s.withResult (.header (destIdOfBytes _ _ _ _) len)) = _
    rw [destIdOfBytes_destIdBytes]
    rfl
  case buildParsed =>
    intro bytes h
    obtain ⟨b0, b1, b2, b3, len, rfl⟩ := length_eq_five h
    refine ⟨_, len, exec_eq_next.2 rfl, exec_eq_next.2 ?_⟩
    change runHdrBuild (destIdOfBytes b0 b1 b2 b3) len s = _
    rw [runHdrBuild, destIdBytes_destIdOfBytes]
    rfl

end Sys2Proof.Machine
end

section
/-! SUPPORT. The packet buffer's transfer operations (40_packet_codec.md section 6). -/

namespace Sys2Proof.Machine

variable {p : Params} {s : State}

/-- `BUF.PUSH` of 1 to 255 bytes with its register set answers what `bufPush` gives (rule R135). -/
theorem runAt_bufPush {data : List Byte} {m : BitVec 8} (hpos : 1 ≤ data.length) (hle : data.length ≤ 255)
    (hm : s.cfg.maxPacketLen = some m) :
    runAt p (.bufPush data) s = .ok ((bufPush m data s).2.withResult (.ok (bufPush m data s).1)) := by
  change runBufPush data s = _
  rw [runBufPush, if_neg (by omega), hm]
  rfl

/-- Settles O11: `bufPush_no_room` and `bufPush_room`, with `read_writeRange` for the bytes. -/
theorem bufPushAppends : Obligations.BufPushAppends := by
  intro data m s hs hm
  refine ⟨exec_eq_fault.2 rfl, ?full, ?fits⟩
  case full =>
    intro hpos hle hfull
    rw [exec_eq_next, runAt_bufPush hpos hle hm, bufPush_no_room hfull]
    rfl
  case fits =>
    intro hpos hfits
    have hm255 : m.toNat < 256 := m.isLt
    refine ⟨Memory.writeRange s.pktBuf s.pktLen.toNat data, ?_,
      read_writeRange hs.canonical data (by simp only [pktCells]; omega)⟩
    rw [exec_eq_next, runAt_bufPush hpos (by omega) hm, bufPush_room hfits]
    rfl

/-- Settles O12: a pop's bytes are the run of the buffer from the read cursor on. -/
theorem bufResetAndPop : Obligations.BufResetAndPop := by
  intro n s
  refine ⟨exec_eq_next.2 rfl, _, exec_eq_next.2 rfl, readRange_length _ _ _, ?_⟩
  intro i hi
  rw [readRange_length] at hi
  exact readRange_getD _ _ _ i hi 0

/-- A sequence of pops takes the run from the read cursor on, of the sizes' sum or up to the write cursor (rule R137). -/
theorem poppedBytes_eq (chunks : List (BitVec 8)) (h : s.pktRd.toNat ≤ s.pktLen.toNat) :
    poppedBytes chunks s = Memory.readRange s.pktBuf s.pktRd.toNat
      (min (chunks.map BitVec.toNat).sum (s.pktLen.toNat - s.pktRd.toNat)) := by
  induction chunks generalizing s with
  | nil => rw [List.map_nil, List.sum_nil, Nat.zero_min]; rfl
  | cons n ns ih =>
    have hlen := s.pktLen.isLt
    have hrd : (bufPop n s).2.pktRd.toNat = s.pktRd.toNat + min n.toNat (s.pktLen.toNat - s.pktRd.toNat) := by
      rw [bufPop_snd, BitVec.toNat_ofNat, Nat.mod_eq_of_lt (by omega)]
    have hrest := ih (s := (bufPop n s).2) (by rw [hrd, bufPop_snd]; dsimp only; omega)
    rw [hrd] at hrest
    rw [poppedBytes, hrest]
    simp only [bufPop, ← readRange_append, List.map_cons, List.sum_cons]
    congr 1
    omega

/-- A built frame's length is the buffer's, and nothing of it has been taken yet (rule R125). -/
theorem frameBuild_cursors {t : State} {f : BuiltFrame} (h : frameBuild p s = .ok (f, t)) : t.pktLen = f.len ∧ t.pktRd = 0 := by
  obtain ⟨ppmSend, maxLen, dest, -, -, -, ⟨-, -, rfl, rfl⟩ | ⟨-, -, rfl, rfl⟩⟩ := frameBuild_cases h <;> exact ⟨rfl, rfl⟩

/-- Settles O13: the pops begin at offset 0, and their sizes reach the end of the frame. -/
theorem bufPopChunksConcatenate : Obligations.BufPopChunksConcatenate := by
  intro p s t f h chunks hsum
  obtain ⟨hlen, hrd⟩ := frameBuild_cursors h
  have hrd0 : t.pktRd.toNat = 0 := by rw [hrd]; rfl
  rw [poppedBytes_eq chunks (by omega), hrd0, hlen, Nat.sub_zero, Nat.min_eq_right hsum, pktBytes, hlen]

end Sys2Proof.Machine
end

section
/-! SUPPORT. Building a frame (40_packet_codec.md section 4). -/

namespace Sys2Proof.Machine

variable {p : Params} {s t : State}

/-- What `FRAME.BUILD` puts on its ports (rule R125). -/
theorem runAt_frameBuild {f : BuiltFrame} (h : frameBuild p s = .ok (f, t)) :
    runAt p .frameBuild s = .ok (t.withResult (.built f.len f.destId f.haveData)) := by
  change runFrameBuild p s = _
  rw [runFrameBuild, h]
  rfl

theorem runAt_frameBuild_error {e : Fault} (h : frameBuild p s = .error e) : runAt p .frameBuild s = .error e := by
  change runFrameBuild p s = _
  rw [runFrameBuild, h]
  rfl

/-- The bytes of the buffer after a payload is put into it (last lines of rule R125). -/
theorem read_loadFrame {payload : List Byte} (dest : Word32) (hs : Memory.wf s.pktBuf = true) (hlen : payload.length ≤ pktCells)
    (a : Nat) : Memory.read (loadFrame payload dest s).pktBuf a =
      if a < payload.length then payload.getD a 0 else Memory.read s.pktBuf a := by
  rw [loadFrame_pktBuf, read_writeRange hs payload (by omega)]
  simp only [Nat.zero_le, true_and, Nat.zero_add, Nat.sub_zero]

/-- The valid bytes of a loaded frame are its payload. -/
theorem pktBytes_loadFrame {payload : List Byte} (dest : Word32) (hs : Memory.wf s.pktBuf = true)
    (hlen : payload.length ≤ pktCells) : pktBytes (loadFrame payload dest s) = payload := by
  have hlen256 : payload.length < 2 ^ 8 := Nat.lt_of_le_of_lt hlen (by decide)
  rw [pktBytes, loadFrame_pktBuf, loadFrame_pktLen, BitVec.toNat_ofNat, Nat.mod_eq_of_lt hlen256]
  exact readRange_writeRange hs payload (by omega)

theorem toNat_le_pktCells (m : BitVec 8) : m.toNat ≤ pktCells := Nat.le_of_lt_succ m.isLt

/-! ### PPM-only mode -/

section
variable {ppmSend : Bool} {maxLen : BitVec 8} {dest : Word32} {sub : List Byte}

/-- `FRAME.BUILD` in PPM-only mode, when the sub-frame fits (rule R125). -/
theorem frameBuild_ppmOnly (hmode : s.cfg.ppmOnly = some true) (hsend : s.cfg.ppmSend = some ppmSend)
    (hmax : s.cfg.maxPacketLen = some maxLen) (hdest : s.cfg.peerId = some dest)
    (hsub : sub = if ppmSend then ppmPack p s.ppmTx true else []) (hfits : sub.length ≤ maxLen.toNat) :
    frameBuild p s = .ok ({ len := BitVec.ofNat 8 sub.length, destId := dest, haveData := ppmSend }, loadFrame sub dest s) := by
  unfold frameBuild
  simp only [hmode, hsend, hmax, need_some, ok_bind, if_true]
  rw [← hsub, if_neg (Nat.not_lt.2 hfits), hdest]
  rfl

theorem frameBuild_ppmOnly_no_room (hmode : s.cfg.ppmOnly = some true) (hsend : s.cfg.ppmSend = some ppmSend)
    (hmax : s.cfg.maxPacketLen = some maxLen) (hsub : sub = if ppmSend then ppmPack p s.ppmTx true else [])
    (hfull : maxLen.toNat < sub.length) : frameBuild p s = .error .configInvalid := by
  unfold frameBuild
  simp only [hmode, hsend, hmax, need_some, ok_bind, if_true]
  rw [← hsub, if_pos hfull]
  rfl

end

/-- Settles O14: the two branches of `FRAME.BUILD` in PPM-only mode, and the buffer by `read_loadFrame`. -/
theorem frameBuildPpmOnly : Obligations.FrameBuildPpmOnly := by
  intro s ppmSend maxLen dest hs hmode hsend hmax hdest sub
  refine ⟨fun hfull => ?refused, fun hfits => ?built⟩
  case refused => exact exec_eq_fault.2 (runAt_frameBuild_error (frameBuild_ppmOnly_no_room hmode hsend hmax rfl hfull))
  case built =>
    exact ⟨_, exec_eq_next.2 (runAt_frameBuild (frameBuild_ppmOnly hmode hsend hmax hdest rfl hfits)),
      read_loadFrame dest hs.canonical (Nat.le_trans hfits (toNat_le_pktCells maxLen))⟩

/-! ### Multiplexed mode -/

/-- A multiplexed payload whose data is cut to the room left by the fixed part fits the room. -/
theorem muxPayload_length_le {sub queue : List Byte} {sel : Byte} {m : Nat} (hfits : muxFixedLen p sub.length ≤ m) {body : List Byte}
    (hbody : body = sub ++ [sel] ++ queue.take (min queue.length (m - muxFixedLen p sub.length))) :
    (body ++ p.fecEncode body).length ≤ m := by
  rw [List.length_append, p.fecEncode_length, hbody]
  simp only [List.length_append, List.length_singleton, List.length_take]
  unfold muxFixedLen at *
  omega

theorem selectorOf_streamOfToggle (toggle : Bool) : selectorOf (streamOfToggle toggle) = if toggle then 0x01#8 else 0x00#8 := by
  cases toggle <;> rfl

theorem txQueue_streamOfToggle (s : State) (toggle : Bool) :
    txQueue s (streamOfToggle toggle) = if toggle then s.txQueueAux else s.txQueuePrimary := by
  cases toggle <;> rfl

theorem drop_txQueue_streamOfToggle (s : State) (toggle : Bool) (n : Nat) :
    setTxQueue s (streamOfToggle toggle) ((txQueue s (streamOfToggle toggle)).drop n) = { s with
      txQueuePrimary := if toggle then s.txQueuePrimary else s.txQueuePrimary.drop n
      txQueueAux := if toggle then s.txQueueAux.drop n else s.txQueueAux } := by
  cases toggle <;> rfl

/-- Settles O15: `frameBuild_multiplexed` with the toggled stream written out, and the buffer by `read_loadFrame`. -/
theorem frameBuildMultiplexed : Obligations.FrameBuildMultiplexed := by
  intro p s ppmSend maxLen dest hs hmode hsend hmax hdest sub queue n body payload
  refine ⟨fun hfull => ?refused, fun hfits => ?built⟩
  case refused => exact runAt_frameBuild_error (frameBuild_no_room hmode hsend hmax rfl hfull)
  case built =>
    have hqueue : queue = txQueue s (streamOfToggle s.streamToggle) := (txQueue_streamOfToggle s _).symm
    have hbody : body = sub ++ [selectorOf (streamOfToggle s.streamToggle)] ++ queue.take n := by
      rw [selectorOf_streamOfToggle]
    have hlen : payload.length ≤ maxLen.toNat := muxPayload_length_le hfits hbody
    have hrun := runAt_frameBuild (frameBuild_multiplexed hmode hsend hmax hdest rfl hfits rfl (n := n) (by rw [← hqueue]; rfl)
      (body := body) (by rw [hbody, hqueue]))
    refine ⟨hlen, Memory.writeRange s.pktBuf 0 payload, ?_,
      read_loadFrame dest hs.canonical (Nat.le_trans hlen (toNat_le_pktCells maxLen))⟩
    rw [hrun]
    exact congrArg (fun u => Except.ok ((loadFrame payload dest u).withResult _))
      (drop_txQueue_streamOfToggle { s with streamToggle := !s.streamToggle } s.streamToggle n)

end Sys2Proof.Machine
end

section
/-! SUPPORT. Parsing a frame, and the build-then-parse law (40_packet_codec.md section 5). -/

namespace Sys2Proof.Machine

variable {p : Params} {s : State}

/-- What `FRAME.PARSE` puts on its ports; it writes the received samples only (rule R130). -/
theorem runAt_frameParse {len : BitVec 8} {r : ParsedFrame × State} (h : frameParse p len s = .ok r) :
    runAt p (.frameParse len) s = .ok { s with
      ppmRx := r.2.ppmRx, result := .parsed r.1.outcome r.1.streamId r.1.data } := by
  change runFrameParse p len s = _
  rw [runFrameParse, h]
  exact congrArg (fun u => Except.ok (u.withResult (.parsed r.1.outcome r.1.streamId r.1.data))) (frameParse_frame h)

@[simp] theorem pktBytes_length (s : State) : (pktBytes s).length = s.pktLen.toNat := readRange_length _ _ _

theorem frameParse_length_ne {len : BitVec 8} (h : len ≠ s.pktLen) :
    frameParse p len s = .ok (ParsedFrame.nothing .failure, s) := if_pos h

theorem frameParse_ppmOnly {ppmRecv : Bool} (hmode : s.cfg.ppmOnly = some true) (hrecv : s.cfg.ppmRecv = some ppmRecv) :
    frameParse p s.pktLen s = .ok (parsePpmOnly p ppmRecv (pktBytes s) s) := by
  unfold frameParse
  rw [if_neg (not_not.2 rfl), hmode, hrecv]
  rfl

theorem frameParse_multiplexed {ppmRecv : Bool} (hmode : s.cfg.ppmOnly = some false) (hrecv : s.cfg.ppmRecv = some ppmRecv) :
    frameParse p s.pktLen s = .ok (parseMux p ppmRecv (pktBytes s) s) := by
  unfold frameParse
  rw [if_neg (not_not.2 rfl), hmode, hrecv]
  rfl

/-! ### The two modes after the length comparison -/

section
variable {ppmRecv : Bool} {buf : List Byte}

theorem parsePpmOnly_length_ne (h : buf.length ≠ if ppmRecv then p.numPpmCh + 2 else 0) :
    parsePpmOnly p ppmRecv buf s = (ParsedFrame.nothing .failure, s) := if_pos h

theorem parsePpmOnly_nil : parsePpmOnly p false [] s = (ParsedFrame.nothing .good, s) := rfl

theorem parsePpmOnly_subframe (h : buf.length = p.numPpmCh + 2) : parsePpmOnly p true buf s =
    (ParsedFrame.nothing (if (ppmUnpack p buf true s).1 then .good else .error), (ppmUnpack p buf true s).2) :=
  if_neg (not_not.2 h)

/-- The bytes of the sub-frame before the selector (rule R130 `o`). -/
def selectorOffset (p : Params) (ppmRecv : Bool) : Nat := if ppmRecv then 1 + p.numPpmCh else 0

theorem parseMux_short (h : buf.length < muxFixedLen p (selectorOffset p ppmRecv)) :
    parseMux p ppmRecv buf s = (ParsedFrame.nothing .failure, s) := if_pos h

theorem parseMux_uncorrectable (h : muxFixedLen p (selectorOffset p ppmRecv) ≤ buf.length)
    (hdecode : p.fecDecode buf = .uncorrectable) : parseMux p ppmRecv buf s = (ParsedFrame.nothing .error, s) := by
  unfold selectorOffset at h
  unfold parseMux
  rw [if_neg (Nat.not_lt.2 h), hdecode]

theorem parseMux_clean (h : muxFixedLen p (selectorOffset p ppmRecv) ≤ buf.length) (hdecode : p.fecDecode buf = .clean) :
    parseMux p ppmRecv buf s = deliverBody p ppmRecv .good (buf.take (buf.length - p.fecNparity)) s := by
  unfold selectorOffset at h
  unfold parseMux
  rw [if_neg (Nat.not_lt.2 h), hdecode]

theorem parseMux_corrected {d : List Byte} (h : muxFixedLen p (selectorOffset p ppmRecv) ≤ buf.length)
    (hdecode : p.fecDecode buf = .corrected d) : parseMux p ppmRecv buf s = deliverBody p ppmRecv .corrected d s := by
  unfold selectorOffset at h
  unfold parseMux
  rw [if_neg (Nat.not_lt.2 h), hdecode]

end

/-! ### The body of a multiplexed frame (step 3 of rule R130) -/

section
variable {ppmRecv : Bool} {outcome : OutcomeCode} {body : List Byte}

/-- A selector that names a stream delivers what follows it. -/
theorem deliverBody_fst_some {id : StreamId} (h : streamOfSelector (body.getD (selectorOffset p ppmRecv) 0) = some id) :
    (deliverBody p ppmRecv outcome body s).1 =
      { outcome := outcome, streamId := some id, data := body.drop (selectorOffset p ppmRecv + 1) } := by
  unfold selectorOffset at *
  unfold deliverBody
  dsimp only
  rw [h]

/-- A reserved selector delivers nothing (D14). -/
theorem deliverBody_fst_none (h : streamOfSelector (body.getD (selectorOffset p ppmRecv) 0) = none) :
    (deliverBody p ppmRecv outcome body s).1 = ParsedFrame.nothing outcome := by
  unfold selectorOffset at h
  unfold deliverBody
  dsimp only
  rw [h]

theorem deliverBody_outcome : (deliverBody p ppmRecv outcome body s).1.outcome = outcome := by
  cases hsel : streamOfSelector (body.getD (selectorOffset p ppmRecv) 0) with
  | some id => rw [deliverBody_fst_some hsel]
  | none => rw [deliverBody_fst_none hsel]; rfl

theorem deliverBody_data_of_no_stream (h : (deliverBody p ppmRecv outcome body s).1.streamId = none) :
    (deliverBody p ppmRecv outcome body s).1.data = [] := by
  cases hsel : streamOfSelector (body.getD (selectorOffset p ppmRecv) 0) with
  | some id => rw [deliverBody_fst_some hsel] at h; cases h
  | none => rw [deliverBody_fst_none hsel]; rfl

/-- The samples are unpacked whatever the selector names. -/
theorem deliverBody_snd_eq : (deliverBody p ppmRecv outcome body s).2 =
    if ppmRecv then (ppmUnpack p (body.take (1 + p.numPpmCh)) false s).2 else s := by
  unfold deliverBody
  dsimp only
  split <;> rfl

/-- A channel's sample lies in the sub-frame's fixed part. -/
theorem subframeSample_take (p : Params) (bytes : List Byte) {i : Nat} (h : i < p.numPpmCh) :
    subframeSample p (bytes.take (1 + p.numPpmCh)) i = subframeSample p bytes i := by
  simp only [subframeSample, List.getD_eq_getElem?_getD]
  rw [List.getElem?_take_of_lt (by omega), List.getElem?_take_of_lt (by omega)]

theorem deliverBody_ppmRx {i : Nat} (h : i < 8) : (deliverBody p ppmRecv outcome body s).2.ppmRx[i] =
    if ppmRecv = true ∧ i < p.numPpmCh then subframeSample p body i else s.ppmRx[i] := by
  rw [getElem_congr_coll (congrArg State.ppmRx deliverBody_snd_eq)]
  cases ppmRecv with
  | false => rfl
  | true =>
    have hunpack := ppmUnpack_getElem p (body.take (1 + p.numPpmCh)) false s i h
    by_cases hch : i < p.numPpmCh
    · simpa [ppmUnpack_fst, hch, subframeSample_take] using hunpack
    · simpa [hch] using hunpack

end

/-! ### What a parse may leave behind (rules R130, R260, R270) -/

/-- What holds of a parse in either mode: no delivery without a stream, none with `Error` or `Failure`, and the samples untouched by
a `Failure` and on a node that receives none. -/
structure ParseSafe (ppmRecv : Bool) (s : State) (r : ParsedFrame × State) : Prop where
  undelivered : r.1.outcome = .error ∨ r.1.outcome = .failure → r.1.streamId = none
  empty : r.1.streamId = none → r.1.data = []
  failure : r.1.outcome = .failure → r.2.ppmRx = s.ppmRx
  silent : ppmRecv = false → r.2.ppmRx = s.ppmRx

theorem parseSafe_nothing (ppmRecv : Bool) (outcome : OutcomeCode) : ParseSafe ppmRecv s (ParsedFrame.nothing outcome, s) :=
  ⟨fun _ => rfl, fun _ => rfl, fun _ => rfl, fun _ => rfl⟩

theorem parsePpmOnly_safe (ppmRecv : Bool) (buf : List Byte) : ParseSafe ppmRecv s (parsePpmOnly p ppmRecv buf s) := by
  by_cases hlen : buf.length = if ppmRecv then p.numPpmCh + 2 else 0
  · cases ppmRecv with
    | false => rw [List.eq_nil_of_length_eq_zero hlen, parsePpmOnly_nil]; exact parseSafe_nothing _ _
    | true =>
      rw [parsePpmOnly_subframe hlen]
      exact ⟨fun _ => rfl, fun _ => rfl, by cases (ppmUnpack p buf true s).1 <;> exact nofun, nofun⟩
  · rw [parsePpmOnly_length_ne hlen]; exact parseSafe_nothing _ _

/-- A body is delivered with a valid outcome only. -/
theorem deliverBody_safe (ppmRecv : Bool) {outcome : OutcomeCode} (h : validOutcome outcome = true) (body : List Byte) :
    ParseSafe ppmRecv s (deliverBody p ppmRecv outcome body s) := by
  refine ⟨?undelivered, ?empty, ?failure, ?silent⟩
  case undelivered => rw [deliverBody_outcome]; rintro (rfl | rfl) <;> cases h
  case empty => exact deliverBody_data_of_no_stream
  case failure => rw [deliverBody_outcome]; rintro rfl; cases h
  case silent => rintro rfl; rw [deliverBody_snd_eq]; rfl

theorem parseMux_safe (ppmRecv : Bool) (buf : List Byte) : ParseSafe ppmRecv s (parseMux p ppmRecv buf s) := by
  rcases Nat.lt_or_ge buf.length (muxFixedLen p (selectorOffset p ppmRecv)) with hlen | hlen
  · rw [parseMux_short hlen]; exact parseSafe_nothing _ _
  · cases hdecode : p.fecDecode buf with
    | clean => rw [parseMux_clean hlen hdecode]; exact deliverBody_safe _ rfl _
    | corrected d => rw [parseMux_corrected hlen hdecode]; exact deliverBody_safe _ rfl _
    | uncorrectable => rw [parseMux_uncorrectable hlen hdecode]; exact parseSafe_nothing _ _

/-- With its two flags set `FRAME.PARSE` answers, safely, and with `Failure` when the lengths differ. -/
theorem frameParse_answers (len : BitVec 8) {ppmOnly ppmRecv : Bool} (hmode : s.cfg.ppmOnly = some ppmOnly)
    (hrecv : s.cfg.ppmRecv = some ppmRecv) : ∃ r, frameParse p len s = .ok r ∧ ParseSafe ppmRecv s r ∧
      (len ≠ s.pktLen → r.1.outcome = .failure) := by
  by_cases hlen : len = s.pktLen
  · subst hlen
    cases ppmOnly with
    | true => exact ⟨_, frameParse_ppmOnly hmode hrecv, parsePpmOnly_safe _ _, absurd rfl⟩
    | false => exact ⟨_, frameParse_multiplexed hmode hrecv, parseMux_safe _ _, absurd rfl⟩
  · exact ⟨_, frameParse_length_ne hlen, parseSafe_nothing _ _, fun _ => rfl⟩

/-- Elements at or above `NUM_PPM_CH` are reached by no parse. -/
theorem frameParse_ppmRx_above {len : BitVec 8} {r : ParsedFrame × State} (h : frameParse p len s = .ok r) {i : Nat} (hi : i < 8)
    (hch : p.numPpmCh ≤ i) : r.2.ppmRx[i] = s.ppmRx[i] := by
  obtain ⟨f, t⟩ := r
  rcases frameParse_snd h with rfl | ⟨g, rfl⟩
  · rfl
  · rw [setPpmRx_getElem, if_neg (Nat.not_lt.2 hch)]

/-- Settles O16: what `frameParse_answers` gives, with the frame of `runAt_frameParse`. -/
theorem frameParseWritesOnlySamples : Obligations.FrameParseWritesOnlySamples := by
  intro len s ppmOnly ppmRecv hmode hrecv
  obtain ⟨r, hr, safe, hlen⟩ := frameParse_answers (p := Config.params) len hmode hrecv
  exact ⟨_, _, _, _, exec_eq_next.2 (runAt_frameParse hr),
    fun h => ⟨safe.undelivered h, safe.empty (safe.undelivered h)⟩, safe.empty, safe.failure, safe.silent, hlen,
    fun i hi hch => frameParse_ppmRx_above hr hi hch⟩

/-- Settles O17: the lengths other than the mode's, the empty frame, and the sub-frame as `PPM.UNPACK` answers it. -/
theorem frameParsePpmOnly : Obligations.FrameParsePpmOnly := by
  intro s hmode
  have hrun {ppmRecv : Bool} (hrecv : s.cfg.ppmRecv = some ppmRecv) :=
    runAt_frameParse (frameParse_ppmOnly (p := Config.params) hmode hrecv)
  refine ⟨fun hrecv => ?silent, fun hrecv hlen => ?wrong, fun hrecv hlen => ?subframe⟩
  case silent =>
    rw [exec_eq_next, hrun hrecv]
    by_cases h0 : s.pktLen = 0
    · have hnil : pktBytes s = [] := List.eq_nil_of_length_eq_zero (by rw [pktBytes_length, h0]; rfl)
      rw [hnil, parsePpmOnly_nil, if_pos h0]
      rfl
    · have hne : (pktBytes s).length ≠ 0 := by
        rw [pktBytes_length]; exact fun h => h0 (BitVec.eq_of_toNat_eq h)
      rw [parsePpmOnly_length_ne hne, if_neg h0]
      rfl
  case wrong =>
    rw [exec_eq_next, hrun hrecv, parsePpmOnly_length_ne (by rwa [pktBytes_length])]
    rfl
  case subframe =>
    have hparse := hrun hrecv
    rw [parsePpmOnly_subframe (by rwa [pktBytes_length])] at hparse
    refine ⟨_, _, exec_eq_next.2 (runAt_ppmUnpack ?_), exec_eq_next.2 hparse⟩
    rw [pktBytes_length, hlen, subframeLen, Bool.toNat_true]
    omega

/-- What the ports show of a delivered body. -/
theorem deliverBody_result {ppmRecv : Bool} {outcome : OutcomeCode} {body : List Byte} {r : ParsedFrame}
    (hr : r = (deliverBody p ppmRecv outcome body s).1) : Result.parsed r.outcome r.streamId r.data =
      if body.getD (selectorOffset p ppmRecv) 0 = 0x00#8 then
        .parsed outcome (some .primary) (body.drop (selectorOffset p ppmRecv + 1))
      else if body.getD (selectorOffset p ppmRecv) 0 = 0x01#8 then
        .parsed outcome (some .aux) (body.drop (selectorOffset p ppmRecv + 1))
      else .parsed outcome none [] := by
  rw [hr]
  split_ifs with hprimary haux
  · rw [deliverBody_fst_some (id := .primary) (by rw [hprimary]; rfl)]
  · rw [deliverBody_fst_some (id := .aux) (by rw [haux]; rfl)]
  · rw [deliverBody_fst_none ((if_neg hprimary).trans (if_neg haux))]
    rfl

/-- Settles O18: the branches of `parseMux`, and the body by `deliverBody_result` and `deliverBody_ppmRx`. -/
theorem frameParseMultiplexed : Obligations.FrameParseMultiplexed := by
  intro p s ppmRecv hmode hrecv o
  have hrun := runAt_frameParse (frameParse_multiplexed (p := p) hmode hrecv)
  refine ⟨fun hshort => ?failure, fun hlen hdecode => ?error, fun outcome body hlen hbody => ?delivered⟩
  case failure => rw [hrun, parseMux_short (by rwa [pktBytes_length])]; rfl
  case error => rw [hrun, parseMux_uncorrectable (by rwa [pktBytes_length]) hdecode]; rfl
  case delivered =>
    have hparse : parseMux p ppmRecv (pktBytes s) s = deliverBody p ppmRecv outcome body s := by
      rcases hbody with ⟨rfl, hdecode, rfl⟩ | ⟨rfl, hdecode⟩
      · rw [parseMux_clean (by rwa [pktBytes_length]) hdecode, pktBytes_length]
      · exact parseMux_corrected (by rwa [pktBytes_length]) hdecode
    rw [hparse, deliverBody_result rfl] at hrun
    refine ⟨_, hrun, fun i hi => ?_⟩
    rw [deliverBody_ppmRx hi, subframeSample, assembleCode_eq]

/-! ### Build, then parse (rule R132) -/

@[simp] theorem streamOfSelector_selectorOf (id : StreamId) : streamOfSelector (selectorOf id) = some id := by
  cases id <;> rfl

section
variable {ppmRecv : Bool} {sub data : List Byte} {sel : StreamId}

/-- A body laid out as `FRAME.BUILD` lays it out delivers its stream and its data. -/
theorem deliverBody_layout (outcome : OutcomeCode) (hsub : sub.length = selectorOffset p ppmRecv) :
    (deliverBody p ppmRecv outcome (sub ++ [selectorOf sel] ++ data) s).1 =
      { outcome := outcome, streamId := some sel, data := data } := by
  have hsel : (sub ++ [selectorOf sel] ++ data).getD (selectorOffset p ppmRecv) 0 = selectorOf sel := by
    simp [← hsub]
  have hdata : (sub ++ [selectorOf sel] ++ data).drop (selectorOffset p ppmRecv + 1) = data := by
    rw [← hsub]; exact List.drop_left' (by simp)
  rw [deliverBody_fst_some (by rw [hsel, streamOfSelector_selectorOf]), hdata]

/-- Under `FecRoundTrip` a body followed by its parity is parsed as that body. -/
theorem parseMux_fecEncode {body : List Byte} (hfec : p.FecRoundTrip) (hbody : selectorOffset p ppmRecv + 1 ≤ body.length) :
    parseMux p ppmRecv (body ++ p.fecEncode body) s = deliverBody p ppmRecv .good body s := by
  have hlen : (body ++ p.fecEncode body).length = body.length + p.fecNparity := by
    rw [List.length_append, p.fecEncode_length]
  rw [parseMux_clean (by unfold muxFixedLen; omega) (hfec body), hlen, Nat.add_sub_cancel, List.take_left]

end

/-- The sub-frame without checksum, or nothing, is as long as the offset of the selector. -/
theorem subframe_length_eq_selectorOffset (p : Params) (tx : Vector TxSample 8) (present : Bool) :
    (if present then ppmPack p tx false else []).length = selectorOffset p present := by
  cases present with
  | false => rfl
  | true => exact ppmPack_length p tx false

/-- What the receiving node's samples become: the decoded codes of the samples sent, or nothing new when none were. -/
structure SamplesReceived (p : Params) (tx : Vector TxSample 8) (present : Bool) (b b' : State) : Prop where
  sampled : present = true → ∀ (i : Nat) (_ : i < 8), i < p.numPpmCh → b'.ppmRx[i] = ppmSampleOf p (ppmCodeOf p tx[i])
  silent : present = false → b'.ppmRx = b.ppmRx

/-- The law in PPM-only mode: the received payload is the sub-frame packed, or nothing. -/
theorem parsePpmOnly_built (p : Params) (tx : Vector TxSample 8) (present : Bool) (b : State) :
    ∃ b', parsePpmOnly p present (if present then ppmPack p tx true else []) b = (ParsedFrame.nothing .good, b') ∧
      SamplesReceived p tx present b b' := by
  cases present with
  | false => exact ⟨b, rfl, nofun, fun _ => rfl⟩
  | true =>
    obtain ⟨hok, hsamples⟩ := ppmUnpack_pack p tx true b
    have hlen : (ppmPack p tx true).length = p.numPpmCh + 2 := by
      rw [ppmPack_length, Bool.toNat_true]; omega
    refine ⟨_, ?_, fun _ => hsamples, nofun⟩
    rw [if_pos rfl, parsePpmOnly_subframe hlen, hok]
    rfl

/-- The law in multiplexed mode, for a body of the layout of rule R125. -/
theorem parseMux_built {p : Params} (hfec : p.FecRoundTrip) (tx : Vector TxSample 8) (present : Bool) (sel : StreamId)
    (data : List Byte) (b : State) {body : List Byte}
    (hbody : body = (if present then ppmPack p tx false else []) ++ [selectorOf sel] ++ data) :
    ∃ b', parseMux p present (body ++ p.fecEncode body) b =
        ({ outcome := .good, streamId := some sel, data := data }, b') ∧ SamplesReceived p tx present b b' := by
  have hsub := subframe_length_eq_selectorOffset p tx present
  have hlen : selectorOffset p present + 1 ≤ body.length := by rw [hbody, ← hsub]; simp
  refine ⟨(deliverBody p present .good body b).2, ?parsed, ?sampled, ?silent⟩
  case parsed =>
    rw [parseMux_fecEncode hfec hlen, ← deliverBody_layout (s := b) .good hsub, ← hbody]
  case sampled =>
    rintro rfl i hi hch
    rw [deliverBody_ppmRx hi, if_pos ⟨rfl, hch⟩, hbody, List.append_assoc]
    exact subframeSample_pack p tx false _ i hch hi
  case silent => rintro rfl; rw [deliverBody_snd_eq]; rfl

/-- Settles O19: the payload the first node built is the second's buffer (`pktBytes_loadFrame`), and each mode has its law
(`parsePpmOnly_built`, `parseMux_built`). -/
theorem buildThenParse : Obligations.BuildThenParse := by
  intro p hfec a a' b f ha hbuild honly hrecv hlen hbytes
  obtain ⟨ppmSend, maxLen, dest, hsend, -, -, ⟨hmode, hfits, -, rfl⟩ | ⟨hmode, hfits, -, rfl⟩⟩ := frameBuild_cases hbuild
  case inl =>
    obtain ⟨b', hbuilt, hsamples⟩ := parsePpmOnly_built p a.ppmTx ppmSend b
    have hparse := frameParse_ppmOnly (p := p) (honly.trans hmode) (hrecv.trans hsend)
    rw [hlen, hbytes, pktBytes_loadFrame dest ha.canonical (Nat.le_trans hfits (toNat_le_pktCells maxLen)), hbuilt] at hparse
    rw [hmode, hsend]
    exact ⟨_, b', hparse, rfl, fun _ => ⟨rfl, rfl⟩, nofun, fun h => hsamples.sampled (Option.some.inj h),
      fun h => hsamples.silent (Option.some.inj h)⟩
  case inr =>
    set sel := streamOfToggle a.streamToggle
    set n := min (txQueue a sel).length (maxLen.toNat - muxFixedLen p (if ppmSend then ppmPack p a.ppmTx false else []).length)
    obtain ⟨b', hbuilt, hsamples⟩ := parseMux_built hfec a.ppmTx ppmSend sel ((txQueue a sel).take n) b rfl
    have hparse := frameParse_multiplexed (p := p) (honly.trans hmode) (hrecv.trans hsend)
    have hpayload := muxPayload_length_le (queue := txQueue a sel) (sel := selectorOf sel) hfits rfl
    rw [hlen, hbytes, pktBytes_loadFrame dest (by rw [setTxQueue_frame]; exact ha.canonical)
      (Nat.le_trans hpayload (toNat_le_pktCells maxLen)), hbuilt] at hparse
    rw [hmode, hsend]
    exact ⟨_, b', hparse, rfl, nofun, fun _ => ⟨n, rfl, rfl, setTxQueue_same _ sel _⟩,
      fun h => hsamples.sampled (Option.some.inj h), fun h => hsamples.silent (Option.some.inj h)⟩

end Sys2Proof.Machine
end

section
/-! SUPPORT. The channel table: generated, and read at a hop index (41_channel_scheduler.md section 1). -/

namespace Sys2Proof.Machine

variable {p : Params} {s : State}

/-! ### What the table is made from (rules R30, R150) -/

section
variable {c : ConfigRegs}

theorem coordinatorId_eq {role : Role} (h : c.role = some role) :
    coordinatorId c = if role = .coordinator then c.deviceId else c.peerId := by
  rw [coordinatorId, h]
  cases role <;> rfl

theorem coordinatorId_eq_none : coordinatorId c = none ↔
    c.role = none ∨ c.role = some .coordinator ∧ c.deviceId = none ∨ c.role = some .peer ∧ c.peerId = none := by
  cases h : c.role with
  | none => simp [coordinatorId, h]
  | some role => cases role <;> simp [coordinatorId_eq h]

theorem tableInputs_eq_none : tableInputs c = none ↔
    coordinatorId c = none ∨ c.datarate = none ∨ c.minChannel = none ∨ c.maxChannel = none := by
  unfold tableInputs
  split
  case h_1 => simp [*]
  case h_2 hunset =>
    refine iff_of_true rfl (by_contra fun hset => ?_)
    simp only [not_or, ← ne_eq, Option.ne_none_iff_exists'] at hset
    obtain ⟨⟨cid, hcid⟩, ⟨datarate, hrate⟩, ⟨minChannel, hmin⟩, maxChannel, hmax⟩ := hset
    exact hunset cid datarate minChannel maxChannel hcid hrate hmin hmax

theorem tableInputs_of_set {role : Role} {cid datarate : Word32} {minChannel maxChannel : BitVec 8} (hrole : c.role = some role)
    (hcid : (if role = .coordinator then c.deviceId else c.peerId) = some cid) (hrate : c.datarate = some datarate)
    (hmin : c.minChannel = some minChannel) (hmax : c.maxChannel = some maxChannel) :
    tableInputs c = some ⟨cid, datarate, minChannel, maxChannel⟩ := by
  rw [tableInputs, coordinatorId_eq hrole, hcid, hrate, hmin, hmax]

end

/-! ### Generating it (rules R150, R151) -/

theorem runAt_chGen_unset (h : tableInputs s.cfg = none) : runAt p .chGen s = .error .configUnset :=
  bind_eq_error.2 (.inl (need_eq_error.2 ⟨h, rfl⟩))

/-- `CH.GEN` with its inputs set writes the table of `chGen` and sends the index to 0. -/
theorem runAt_chGen {t : TableInputs} (h : tableInputs s.cfg = some t) :
    runAt p .chGen s = .ok { s with
      channelTable := (chGen p t s).channelTable, channelCount := (chGen p t s).channelCount, channelIndex := 0
      result := .count (BitVec.ofNat 6 (chGen p t s).channelCount.val) } :=
  bind_eq_ok.2 ⟨t, need_eq_ok.2 h, rfl⟩

/-- Draw `i` of the keyed stream, counted from its start (rule R151). -/
theorem draws_streamStart_getD (p : Params) (cid : Word32) {n i : Nat} (h : i < n) :
    (draws p cid n (streamStart p)).getD i 0 =
      (p.keyedHash cid (BitVec.ofNat 32 (i / p.digestLen))).getD (i % p.digestLen) 0 := by
  rw [show streamStart p = streamAfter p cid 0 from rfl, draws_eq]
  simp [h]

/-- The shuffle as one pass over the indexes, its draws read from the keyed hash. -/
theorem generatedChannels_eq_foldl (p : Params) (t : TableInputs) {work : List Nat}
    (hwork : enumerateChannels p t.datarate t.minChannel t.maxChannel = work) :
    generatedChannels p t = (List.range work.length).foldl (fun w i => swapAt w i (i +
      ((p.keyedHash t.cid (BitVec.ofNat 32 (i / p.digestLen))).getD (i % p.digestLen) 0).toNat % (work.length - i))) work := by
  rw [generatedChannels, shuffledChannels, hwork]
  simp only [shuffleFrom_eq_foldl, draws_length]
  refine List.foldl_ext _ _ _ fun w i hi => ?_
  rw [Nat.zero_add, draws_streamStart_getD p t.cid (List.mem_range.1 hi)]

/-- Settles O20: the enumeration is `enumerateChannels_eq`, the shuffle `generatedChannels_eq_foldl`. -/
theorem channelShuffle : Obligations.ChannelShuffle := by
  intro p s
  refine ⟨?refused, ?answered⟩
  case refused =>
    intro h
    refine runAt_chGen_unset (tableInputs_eq_none.2 ?_)
    simpa only [coordinatorId_eq_none, or_assoc] using h
  case answered =>
    intro role cid datarate minChannel maxChannel hrole hcid hrate hmin hmax
    have hshuffled := generatedChannels_eq_foldl p ⟨cid, datarate, minChannel, maxChannel⟩ (enumerateChannels_eq ..)
    refine ⟨_, _, runAt_chGen (tableInputs_of_set hrole hcid hrate hmin hmax), ?count, ?entries, chGen_entry_above p _ s⟩
    case count =>
      rw [← enumerateChannels_eq, ← (generatedChannels_perm p ⟨cid, datarate, minChannel, maxChannel⟩).length_eq]
      rfl
    case entries =>
      intro k hk
      exact (chGen_entry p _ s k hk).1.trans (congrArg (·.getD k 0) hshuffled)

/-- Settles O21: `chGen_inv` for the count and the distinctness, `mem_generatedChannels` for the grid. -/
theorem channelTableInvariants : Obligations.ChannelTableInvariants := by
  intro s
  refine ⟨fun h => exec_eq_fault.2 (runAt_chGen_unset h), fun t ht => ?_⟩
  have hinv := chGen_inv Config.params t s
  refine ⟨_, _, exec_eq_next.2 (runAt_chGen ht), hinv.even, hinv.distinct, fun k hk => ?_⟩
  obtain ⟨hentry, hmem⟩ := chGen_entry Config.params t s k hk
  obtain ⟨h250, hlow, hhigh, hgrid⟩ := mem_generatedChannels hmem
  rw [← hentry] at h250 hlow hhigh hgrid
  exact ⟨hlow, hhigh, h250, hgrid⟩

/-! ### Reading it (rule R155) -/

theorem channelCount_val_ne_zero (h : s.channelCount ≠ 0) : s.channelCount.val ≠ 0 := fun h0 => h (Fin.ext h0)

/-- Settles O22: the two branches of `runChAt`. -/
theorem channelAtIndex : Obligations.ChannelAtIndex := by
  intro n s
  refine ⟨fun h => exec_eq_fault.2 (dif_pos (congrArg Fin.val h)), fun h => exec_eq_next.2 ?_⟩
  refine (dif_neg (channelCount_val_ne_zero h)).trans ?_
  rw [channelAt_eq]
  rfl

end Sys2Proof.Machine
end

section
/-! SUPPORT. The logical clock, the hop channel and the send slot (41_channel_scheduler.md sections 2 to 4). -/

namespace Sys2Proof.Machine

variable {p : Params} {s : State} {now : Tick} {role : Role} {period : Period}

/-! ### The clock (rules R157, R158) -/

theorem clkTime_eq (h : s.cfg.role = some role) : clkTime now s = .ok (logicalTime role s.clockSkewMs now) :=
  bind_eq_ok.2 ⟨role, need_eq_ok.2 h, rfl⟩

theorem clkTime_unset (h : s.cfg.role = none) : clkTime now s = .error .configUnset :=
  bind_eq_error.2 (.inl (need_eq_error.2 ⟨h, rfl⟩))

theorem runAt_clkTime {t : Tick} (h : clkTime now s = .ok t) : runAt p (.clkTime now) s = .ok { s with result := .time t } :=
  bind_eq_ok.2 ⟨t, h, rfl⟩

theorem runAt_clkTime_refused {f : Fault} (h : clkTime now s = .error f) : runAt p (.clkTime now) s = .error f :=
  bind_eq_error.2 (.inl h)

/-- Settles O23: the three values of the role register. -/
theorem logicalClock : Obligations.LogicalClock := by
  intro now s
  refine ⟨?coordinator, ?peer, ?unset⟩
  case coordinator => exact fun h => exec_eq_next.2 (runAt_clkTime (clkTime_eq h))
  case peer =>
    intro h
    rw [← BitVec.add_def]
    exact exec_eq_next.2 (runAt_clkTime (clkTime_eq h))
  case unset => exact fun h => exec_eq_fault.2 (runAt_clkTime_refused (clkTime_unset h))

theorem clkSync_coordinator (h : s.cfg.role = some .coordinator) : clkSync p s = .ok (s.clockSkewMs, s) := by
  rw [clkSync, h]
  rfl

theorem clkSync_noChannels (hrole : s.cfg.role = some .peer) (h : s.channelCount = 0) : clkSync p s = .error .noChannels := by
  rw [clkSync, hrole, h]
  rfl

theorem clkSync_peer {datarate : Word32} (hrole : s.cfg.role = some .peer) (hcount : s.channelCount.val ≠ 0)
    (hperiod : s.cfg.packetPeriodMs = some period) (hrate : s.cfg.datarate = some datarate) :
    clkSync p s =
      let skew := learnedSkew period s.channelCount.val s.packetStartTimestamp (p.preambleOffsetOf datarate) s.channelIndex.val
      .ok (skew, { s with clockSkewMs := skew }) := by
  simp [clkSync, hrole, hcount, hperiod, hrate]

theorem runAt_clkSync {skew : BitVec 32} {t : State} (h : clkSync p s = .ok (skew, t)) :
    runAt p .clkSync s = .ok (t.withResult (.skew skew)) :=
  bind_eq_ok.2 ⟨_, h, rfl⟩

theorem runAt_clkSync_refused {f : Fault} (h : clkSync p s = .error f) : runAt p .clkSync s = .error f :=
  bind_eq_error.2 (.inl h)

/-- What is missing to the next multiple of the cycle takes a time to the phase it is moved by (the property of rule R158). -/
theorem add_cycle_complement_mod {cycle : Nat} (hpos : 0 < cycle) (start offset : Nat) :
    (start + (cycle - start % cycle + offset)) % cycle = offset % cycle := by
  have hlt := Nat.mod_lt start hpos
  have hsum : start + (cycle - start % cycle + offset) = offset + cycle * (start / cycle + 1) := by
    rw [Nat.mul_succ]
    have := Nat.div_add_mod start cycle
    omega
  rw [hsum, Nat.add_mul_mod_self_left]

/-- Settles O24: the three answers of `clkSync`, and `add_cycle_complement_mod` for the phase. -/
theorem skewLearning : Obligations.SkewLearning := by
  intro s
  refine ⟨?coordinator, ?empty, ?peer⟩
  case coordinator => exact fun h => exec_eq_next.2 (runAt_clkSync (clkSync_coordinator h))
  case empty => exact fun hrole h => exec_eq_fault.2 (runAt_clkSync_refused (clkSync_noChannels hrole h))
  case peer =>
    intro period datarate hrole hcount hperiod hrate
    have hcount' := channelCount_val_ne_zero hcount
    refine ⟨exec_eq_next.2 (runAt_clkSync (clkSync_peer hrole hcount' hperiod hrate)), fun offset hindex hwrap => ?_⟩
    have hcycle : 0 < period.ms.toNat * s.channelCount.val := Nat.mul_pos (period_pos period) (Nat.pos_of_ne_zero hcount')
    rw [BitVec.toNat_ofNat, Nat.mod_eq_of_lt (Nat.lt_of_le_of_lt (Nat.le_add_left ..) hwrap), hindex]
    exact add_cycle_complement_mod hcycle _ offset

/-! ### The hop (rule R160) -/

theorem hopTarget_pinned {hne : s.channelCount.val ≠ 0} (h : role = .peer ∧ s.connState = .disconnected) :
    hopTarget role now s hne = .ok 0 := if_pos h

theorem hopTarget_clock {hne : s.channelCount.val ≠ 0} (h : ¬ (role = .peer ∧ s.connState = .disconnected))
    (hperiod : s.cfg.packetPeriodMs = some period) :
    hopTarget role now s hne = .ok (hopSlot s hne ((logicalTime role s.clockSkewMs now).toNat / period.ms.toNat)) := by
  rw [hopTarget, if_neg h, hperiod]
  rfl

theorem hopTarget_unset {hne : s.channelCount.val ≠ 0} (h : ¬ (role = .peer ∧ s.connState = .disconnected))
    (hperiod : s.cfg.packetPeriodMs = none) : hopTarget role now s hne = .error .configUnset := by
  rw [hopTarget, if_neg h, hperiod]
  rfl

/-- With the period set the target is the one of the rule's formula. -/
theorem hopTarget_eq (now : Tick) (role : Role) (hne : s.channelCount.val ≠ 0) (hperiod : s.cfg.packetPeriodMs = some period) :
    ∃ target, hopTarget role now s hne = .ok target ∧
      target.val = if role = .peer ∧ s.connState = .disconnected then 0
        else (logicalTime role s.clockSkewMs now).toNat / period.ms.toNat % s.channelCount.val := by
  by_cases hpinned : role = .peer ∧ s.connState = .disconnected
  · exact ⟨0, hopTarget_pinned hpinned, (if_pos hpinned).symm⟩
  · exact ⟨_, hopTarget_clock hpinned hperiod, (if_neg hpinned).symm⟩

/-- The drop-back test over plain numbers. -/
theorem hopDrops_eq (p : Params) (role : Role) (now : Tick) (s : State) (target : Fin 32) : hopDrops p role now s target =
    decide (target.val ≠ s.channelIndex.val ∧ role = .peer ∧ s.connState = .connected ∧
      p.connectTimeoutMs ≤ (now.toNat + 4294967296 - s.lastContactTimestamp.toNat) % 4294967296) := by
  simp only [hopDrops, contactTimedOut, elapsed_eq, decide_eq_true_eq, ne_eq, Fin.ext_iff]

theorem hopIndex_val (drop : Bool) (target : Fin 32) :
    (if drop then (0 : Fin 32) else target).val = if drop then 0 else target.val := by
  cases drop <;> rfl

theorem hopIndex_lt {count : Nat} (drop : Bool) {target : Fin 32} (h : target.val < count) :
    (if drop then (0 : Fin 32) else target).val < count := by
  cases drop with
  | false => exact h
  | true => exact Nat.zero_lt_of_lt h

/-- A target answers: a drop sends the index to 0 and disconnects. -/
theorem hopEval_eq {hne : s.channelCount.val ≠ 0} {target idx : Fin 32} (hrole : s.cfg.role = some role)
    (htarget : hopTarget role now s hne = .ok target) (hidx : (if hopDrops p role now s target then 0 else target) = idx) :
    hopEval p now s = .ok (tableEntry s idx.val, idx != s.channelIndex, { s with
      connState := if hopDrops p role now s target then .disconnected else s.connState, channelIndex := idx }) := by
  subst hidx
  rw [hopEval, dif_neg hne, hrole, need_some, ok_bind, ← channelAt_eq]
  exact bind_eq_ok.2 ⟨target, htarget, rfl⟩

theorem hopEval_noChannels (h : s.channelCount.val = 0) : hopEval p now s = .error .noChannels := dif_pos h

theorem hopEval_role_unset (hne : s.channelCount.val ≠ 0) (h : s.cfg.role = none) :
    hopEval p now s = .error .configUnset := by
  rw [hopEval, dif_neg hne, h]
  rfl

theorem hopEval_target_refused {f : Fault} {hne : s.channelCount.val ≠ 0} (hrole : s.cfg.role = some role)
    (htarget : hopTarget role now s hne = .error f) : hopEval p now s = .error f := by
  rw [hopEval, dif_neg hne, hrole, need_some, ok_bind]
  exact bind_eq_error.2 (.inl htarget)

theorem runAt_hopEval {channel : BitVec 8} {changed : Bool} {t : State} (h : hopEval p now s = .ok (channel, changed, t)) :
    runAt p (.hopEval now) s = .ok (t.withResult (.hop channel changed)) :=
  bind_eq_ok.2 ⟨_, h, rfl⟩

theorem runAt_hopEval_refused {f : Fault} (h : hopEval p now s = .error f) : runAt p (.hopEval now) s = .error f :=
  bind_eq_error.2 (.inl h)

/-- Settles O25: `hopTarget_eq` is the index before the drop-back test, `hopDrops_eq` the test. -/
theorem hopEvaluation : Obligations.HopEvaluation := by
  intro now s
  refine ⟨?empty, ?roleUnset, ?periodUnset, ?answered⟩
  case empty => exact fun h => exec_eq_fault.2 (runAt_hopEval_refused (hopEval_noChannels (congrArg Fin.val h)))
  case roleUnset =>
    exact fun h hrole => exec_eq_fault.2 (runAt_hopEval_refused (hopEval_role_unset (channelCount_val_ne_zero h) hrole))
  case periodUnset =>
    intro role h hrole hclock hperiod
    have htarget := hopTarget_unset (now := now) (hne := channelCount_val_ne_zero h) hclock hperiod
    exact exec_eq_fault.2 (runAt_hopEval_refused (hopEval_target_refused hrole htarget))
  case answered =>
    intro role period h hrole hperiod
    have hne := channelCount_val_ne_zero h
    obtain ⟨target, htarget, hval⟩ := hopTarget_eq now role hne hperiod
    have hrun := runAt_hopEval (hopEval_eq (p := Config.params) hrole htarget rfl)
    rw [hopDrops_eq, hval, logicalTime_toNat] at hrun
    refine ⟨_, ?_, hopIndex_lt _ (hopTarget_lt htarget), exec_eq_next.2 hrun⟩
    rw [hopIndex_val, hval, logicalTime_toNat]

/-! ### The send slot (rule R162) -/

theorem runAt_slotTurn {turn : Bool} (h : slotTurn now s = .ok turn) :
    runAt p (.slotTurn now) s = .ok { s with result := .myTurn turn } :=
  bind_eq_ok.2 ⟨turn, h, rfl⟩

theorem slotTurn_unset (h : s.cfg.oneWayLink = none ∨ s.cfg.role = none ∨
    s.cfg.packetPeriodMs = none ∧ ¬ (s.cfg.oneWayLink = some true ∧ s.cfg.role = some .peer)) :
    slotTurn now s = .error .configUnset := by
  unfold slotTurn
  cases hlink : s.cfg.oneWayLink with
  | none => rfl
  | some oneWay =>
    cases hrole : s.cfg.role with
    | none => rfl
    | some role =>
      simp only [hlink, hrole, reduceCtorEq, false_or, Option.some.injEq] at h
      simp only [need_some, ok_bind, if_neg h.2, h.1, need_none, error_bind]

theorem runAt_slotTurn_refused {f : Fault} (h : slotTurn now s = .error f) : runAt p (.slotTurn now) s = .error f :=
  bind_eq_error.2 (.inl h)

/-- The slot test over plain numbers. -/
theorem slotTest_eq (oneWay : Bool) (role : Role) (period : Period) (t : Tick) : slotTest oneWay role period t =
    let phase := (t.toNat + 4294967295) % 4294967296
    decide (if oneWay then role = .coordinator ∧ phase % period.ms.toNat = 0
      else if role = .coordinator then phase % (2 * period.ms.toNat) = 0
      else phase % (2 * period.ms.toNat) = period.ms.toNat) := by
  unfold slotTest
  simp only [phase_eq]
  cases oneWay <;> cases role <;> simp

/-- Settles O26: `slotTurn_eq`, `slotTurn_oneWay_peer` and `slotTurn_unset`, with `slotTest_eq` for the three tests. -/
theorem sendSlotTest : Obligations.SendSlotTest := by
  intro now s
  refine ⟨?answered, ?oneWayPeer, ?unset⟩
  case answered =>
    intro oneWay role period hlink hrole hperiod
    have hrun := runAt_slotTurn (p := Config.params) (slotTurn_eq (now := now) hlink hrole hperiod)
    rw [slotTest_eq, logicalTime_toNat] at hrun
    exact exec_eq_next.2 hrun
  case oneWayPeer => exact fun hlink hrole => exec_eq_next.2 (runAt_slotTurn (slotTurn_oneWay_peer hlink hrole))
  case unset => exact fun h => exec_eq_fault.2 (runAt_slotTurn_refused (slotTurn_unset h))

/-! ### The slots alternate (rule R163) -/

section
variable {t : Tick}

theorem phase_of_pos (h : 1 ≤ t.toNat) : (t - 1#32).toNat = t.toNat - 1 := BitVec.toNat_sub_of_le h

theorem slotTest_coordinator (h : 1 ≤ t.toNat) :
    slotTest false .coordinator period t = true ↔ (t.toNat - 1) % (2 * period.ms.toNat) = 0 := by
  rw [← phase_of_pos h]
  exact decide_eq_true_iff

theorem slotTest_peer (h : 1 ≤ t.toNat) :
    slotTest false .peer period t = true ↔ (t.toNat - 1) % (2 * period.ms.toNat) = period.ms.toNat := by
  rw [← phase_of_pos h]
  exact decide_eq_true_iff

end

/-- In a window of one cycle exactly one time has a given phase. -/
theorem exists_time_of_phase {cycle phase start : Nat} (hphase : phase < cycle) (hstart : 1 ≤ start) :
    ∃ c, start ≤ c ∧ c < start + cycle ∧ ∀ t, start ≤ t → t < start + cycle → ((t - 1) % cycle = phase ↔ t = c) := by
  have hmem : phase ∈ (Finset.Ico (start - 1) (start - 1 + cycle)).image (· % cycle) := by
    rw [Nat.image_Ico_mod]
    exact Finset.mem_range.2 hphase
  obtain ⟨a, ha, rfl⟩ := Finset.mem_image.1 hmem
  obtain ⟨hlow, hhigh⟩ := Finset.mem_Ico.1 ha
  refine ⟨a + 1, by omega, by omega, fun t ht ht' => ⟨fun h => ?_, by rintro rfl; rfl⟩⟩
  have := Nat.mod_injOn_Ico (start - 1) cycle (Finset.mem_coe.2 (Finset.mem_Ico.2 (by omega))) (Finset.mem_coe.2 ha) h
  omega

/-- Half a cycle further the phase is the other slot's. -/
theorem add_half_cycle_mod {pd : Nat} (hpd : 0 < pd) (x : Nat) :
    ((x + pd) % (2 * pd) = pd ↔ x % (2 * pd) = 0) ∧ ((x + pd) % (2 * pd) = 0 ↔ x % (2 * pd) = pd) := by
  have hlt := Nat.mod_lt x (by omega : 0 < 2 * pd)
  rw [Nat.add_mod, Nat.mod_eq_of_lt (by omega : pd < 2 * pd)]
  rcases Nat.lt_or_ge (x % (2 * pd)) pd with h | h
  · rw [Nat.mod_eq_of_lt (by omega)]
    omega
  · rw [Nat.mod_eq_sub_mod (by omega), Nat.mod_eq_of_lt (by omega)]
    omega

/-- The hop number of a slot, `j = 0` for a coordinator's and `j = 1` for a peer's, is of the slot's parity. -/
theorem hop_parity_of_phase {pd t j : Nat} (hpd : 2 ≤ pd) (ht : 1 ≤ t) (hj : j < 2) (h : (t - 1) % (2 * pd) = j * pd) :
    t / pd % 2 = j := by
  obtain ⟨k, rfl⟩ : ∃ k, t = pd * (2 * k + j) + 1 := by
    refine ⟨(t - 1) / (2 * pd), ?_⟩
    have hdiv := Nat.div_add_mod (t - 1) (2 * pd)
    rw [h] at hdiv
    rw [Nat.mul_add, ← Nat.mul_assoc, Nat.mul_comm pd 2, Nat.mul_comm pd j]
    omega
  rw [Nat.mul_add_div (by omega), Nat.div_eq_of_lt (by omega : 1 < pd)]
  omega

/-- Settles O27: `exists_time_of_phase` gives the slot of each role in the window, `add_half_cycle_mod` their distance and
`hop_parity_of_phase` the parity, which an even count keeps. -/
theorem slotAlternation : Obligations.SlotAlternation := by
  intro period
  have hpd := period_pos period
  refine ⟨?window, ?parity⟩
  case window =>
    intro start hstart hend
    have hslot := fun phase (hphase : phase < 2 * period.ms.toNat) => exists_time_of_phase hphase hstart
    obtain ⟨c, hc, hc', hcoord⟩ := hslot 0 (by omega)
    obtain ⟨q, hq, hq', hpeer⟩ := hslot period.ms.toNat (by omega)
    refine ⟨c, q, hc, hc', hq, hq', ?distance, fun t ht ht' => ?tests⟩
    case distance =>
      have hphase := (hcoord c hc hc').2 rfl
      by_cases hlate : c + period.ms.toNat < start + 2 * period.ms.toNat
      · left
        refine (hpeer _ (by omega) hlate).1 ?_
        rw [Nat.sub_add_comm (by omega)]
        exact (add_half_cycle_mod hpd _).1.2 hphase
      · right
        have hearlier := (hpeer (c - period.ms.toNat) (by omega) (by omega)).1 ?_
        · omega
        refine (add_half_cycle_mod hpd _).2.1 ?_
        rwa [show c - period.ms.toNat - 1 + period.ms.toNat = c - 1 by omega]
    case tests =>
      have htick : (BitVec.ofNat 32 t).toNat = t := by
        rw [BitVec.toNat_ofNat, Nat.mod_eq_of_lt (by omega)]
      rw [slotTest_coordinator (by omega), slotTest_peer (by omega), htick]
      exact ⟨hcoord t ht ht', hpeer t ht ht'⟩
  case parity =>
    intro t count htwo ht hcount heven
    rw [Nat.mod_mod_of_dvd _ (Nat.dvd_of_mod_eq_zero heven), slotTest_coordinator ht, slotTest_peer ht]
    exact ⟨fun h => hop_parity_of_phase htwo ht (by omega) (by omega),
      fun h => hop_parity_of_phase htwo ht (by omega) (by omega)⟩

end Sys2Proof.Machine
end

section
/-! SUPPORT. The outcome history and the score (42_link_stats_timeout.md section 1). -/

namespace Sys2Proof.Machine

variable {p : Params} {s : State}

/-! ### One push (rule R180) -/

theorem outcomeOfCode_of_le {n : Nat} (h : n ≤ 3) :
    ∃ code, outcomeOfCode n = some code ∧ outcomeBits code = BitVec.ofNat 2 n := by
  match n, h with
  | 0, _ => exact ⟨.good, rfl, rfl⟩
  | 1, _ => exact ⟨.corrected, rfl, rfl⟩
  | 2, _ => exact ⟨.error, rfl, rfl⟩
  | 3, _ => exact ⟨.failure, rfl, rfl⟩

theorem outcomeOfCode_of_gt {n : Nat} (h : 3 < n) : outcomeOfCode n = none := by
  match n, h with
  | _ + 4, _ => rfl

theorem runAt_stPush {n : Nat} {code : OutcomeCode} (h : outcomeOfCode n = some code) :
    runAt p (.stPush n) s = .ok { s with history := pushHistory (outcomeBits code) s.history, result := .none } := by
  rw [runAt, runStPush, h]
  rfl

theorem runAt_stPush_refused {n : Nat} (h : outcomeOfCode n = none) : runAt p (.stPush n) s = .error .badOperand := by
  rw [runAt, runStPush, h]

/-- Settles O28: the pushed history by `codeAt_push_zero` and `codeAt_push_succ`. -/
theorem outcomePush : Obligations.OutcomePush := by
  intro s
  refine ⟨?pushed, ?refused⟩
  case pushed =>
    intro outcome h
    obtain ⟨code, hcode, hbits⟩ := outcomeOfCode_of_le h
    refine ⟨pushHistory (outcomeBits code) s.history, exec_eq_next.2 (runAt_stPush hcode), ?_, codeAt_push_succ _ _⟩
    rw [codeAt_push_zero, hbits]
  case refused => exact fun outcome h => exec_eq_fault.2 (runAt_stPush_refused (outcomeOfCode_of_gt h))

/-! ### Repeated pushes -/

/-- After `n` pushes of one code the newest `n` positions hold it and the others what stood `n` positions before. -/
theorem codeAt_iterate_push (c : BitVec 2) (h : Vector (BitVec 32) 4) (n : Nat) {k : Nat} (hk : k < 64) :
    codeAt ((pushHistory c)^[n] h) k = if k < n then c else codeAt h (k - n) := by
  induction n generalizing k with
  | zero => rfl
  | succ n ih =>
    rw [Function.iterate_succ_apply']
    cases k with
    | zero => exact codeAt_push_zero c _
    | succ k =>
      rw [codeAt_push_succ c _ k (by omega), ih (by omega), Nat.add_sub_add_right]
      simp only [Nat.add_lt_add_iff_right]

theorem slotCode_historyResetWord {j : Nat} (hj : j < 16) : slotCode historyResetWord j = 3 := by
  have hslots : ∀ i < 16, slotCode historyResetWord i = 3 := by decide
  exact hslots j hj

theorem codeAt_historyReset {k : Nat} (hk : k < 64) : codeAt historyReset k = 3 := by
  rw [← Nat.div_add_mod k 16, codeAt_eq historyReset (k / 16) (k % 16) (by omega) (Nat.mod_lt k (by decide)),
    historyReset, Vector.getElem_replicate]
  exact slotCode_historyResetWord (Nat.mod_lt k (by decide))

/-! ### The score (rules R182, R183) -/

/-- What one code adds to the score. -/
def codeWeight (c : BitVec 2) : Int := if c = 0 then 1 else if c = 1 then 0 else -1

theorem codeWeight_good : codeWeight 0 = 1 := rfl

theorem codeWeight_failure : codeWeight 3 = -1 := rfl

theorem codeWeight_eq (c : BitVec 2) : codeWeight c =
    (if c = 0 then 1 else 0 : Nat) - (if c = 2 then 1 else 0 : Nat) - (if c = 3 then 1 else 0 : Nat) := by
  revert c
  decide

theorem linkQuality_push (c : BitVec 2) (h : Vector (BitVec 32) 4) :
    linkQuality (pushHistory c h) = linkQuality h + codeWeight c - codeWeight (codeAt h 63) := by
  have hgood := positionCount_push c 0 h
  have herror := positionCount_push c 2 h
  have hfailure := positionCount_push c 3 h
  rw [linkQuality_eq, linkQuality_eq, codeWeight_eq, codeWeight_eq]
  omega

theorem positionCount_historyReset (c : BitVec 2) : positionCount historyReset c = if c = 3 then 64 else 0 := by
  have hcode := fun k (hk : k ∈ List.range 64) => codeAt_historyReset (List.mem_range.1 hk)
  rw [positionCount]
  split
  next h => exact List.countP_eq_length.2 fun k hk => decide_eq_true ((hcode k hk).trans h.symm)
  next h => exact List.countP_eq_zero.2 fun k hk heq => h ((of_decide_eq_true heq).symm.trans (hcode k hk))

theorem linkQuality_historyReset : linkQuality historyReset = 0 := by
  simp [linkQuality_eq, positionCount_historyReset]

/-- From the reset history a Good push drops a Failure while one is left, so the score climbs by 2. -/
theorem linkQuality_good_pushes {n : Nat} (hn : n ≤ 64) : linkQuality ((pushHistory 0)^[n] historyReset) = 2 * n := by
  induction n with
  | zero => exact linkQuality_historyReset
  | succ n ih =>
    have hdropped : codeAt ((pushHistory 0)^[n] historyReset) 63 = 3 := by
      rw [codeAt_iterate_push 0 _ n (by decide), if_neg (by omega), codeAt_historyReset (by omega)]
    rw [Function.iterate_succ_apply', linkQuality_push, ih (by omega), hdropped, codeWeight_good, codeWeight_failure]
    omega

/-- On a history of 64 Good codes a push drops a Good. -/
theorem linkQuality_push_all_good (c : BitVec 2) :
    linkQuality (pushHistory c ((pushHistory 0)^[64] historyReset)) = 127 + codeWeight c := by
  have hdropped : codeAt ((pushHistory 0)^[64] historyReset) 63 = 0 := codeAt_iterate_push 0 _ 64 (by decide)
  rw [linkQuality_push, linkQuality_good_pushes (Nat.le_refl 64), hdropped, codeWeight_good]
  omega

/-- Settles O30: `linkQuality_push` is clause (a); the other clauses are it along a run of Good pushes. -/
theorem linkQualityLaws : Obligations.LinkQualityLaws := by
  refine ⟨fun h c => linkQuality_push c h, fun n hn => linkQuality_good_pushes hn, ?further, linkQuality_push_all_good 3⟩
  case further =>
    rw [Function.iterate_succ_apply']
    exact linkQuality_push_all_good 0

end Sys2Proof.Machine
end

section
/-! SUPPORT. The statistics read, the connected latch and the timeouts (42_link_stats_timeout.md sections 1 to 4, rule R242). -/

namespace Sys2Proof.Machine

variable {p : Params} {s : State} {now : Tick}

/-! ### The connection check over plain numbers (rules R188, R190) -/

theorem contactTimedOut_eq (p : Params) (now last : Tick) : contactTimedOut p now last =
    decide (p.connectTimeoutMs ≤ (now.toNat + 4294967296 - last.toNat) % 4294967296) := by
  rw [contactTimedOut, elapsed_eq]

theorem isConnected_eq (conn : ConnState) : isConnected conn = decide (conn = .connected) := by
  cases conn <;> rfl

/-- The latch after the check. -/
theorem checkedLatch_eq_connected {timedOut : Bool} {conn : ConnState} :
    (if timedOut then .disconnected else conn) = ConnState.connected ↔ conn = .connected ∧ timedOut = false := by
  cases timedOut <;> simp

/-! ### Reading the statistics (rules R182, R242) -/

theorem runAt_stRead (p : Params) (s : State) : runAt p .stRead s = .ok { s with
    result := .counters (positionCount s.history 0) (positionCount s.history 1) (positionCount s.history 2)
      (positionCount s.history 3) (linkQuality s.history) } := by
  rw [runAt, runStRead]
  simp only [historyCount_eq]
  rfl

theorem runAt_statsGet (p : Params) (now : Tick) (rssi : BitVec 8) (s : State) {conn : ConnState}
    (hconn : (if contactTimedOut p now s.lastContactTimestamp then .disconnected else s.connState) = conn) :
    runAt p (.statsGet now rssi) s = .ok { s with
      connState := conn
      result := .stats (positionCount s.history 0) (positionCount s.history 1) (positionCount s.history 2)
        (positionCount s.history 3) (linkQuality s.history) rssi (decide (conn = .connected)) } := by
  subst hconn
  rw [runAt, runStatsGet, ← isConnected_eq]
  simp only [stTochk, historyCount_eq]
  rfl

/-- The score of rule R182 needs no clamp: the four counters sum to 64. -/
theorem linkQuality_range (h : Vector (BitVec 32) 4) : 0 ≤ linkQuality h ∧ linkQuality h ≤ 128 := by
  have hsum := positionCount_sum h
  rw [linkQuality_eq]
  omega

/-- Settles O29: `runAt_stRead` and `runAt_statsGet`, with the score in its range and the latch the check leaves. -/
theorem statisticsRead : Obligations.StatisticsRead := by
  intro now rssi s
  have hread := runAt_stRead Config.params s
  have hget := runAt_statsGet Config.params now rssi s rfl
  obtain ⟨hlow, hhigh⟩ := linkQuality_range s.history
  rw [linkQuality_eq] at hread hget hlow hhigh
  refine ⟨exec_eq_next.2 hread, positionCount_sum s.history, hlow, hhigh, _, ?latch, exec_eq_next.2 hget⟩
  case latch =>
    rw [checkedLatch_eq_connected, contactTimedOut_eq, decide_eq_false_iff_not, Nat.not_le]

/-! ### The connected latch (rules R186, R188, R190) -/

theorem runAt_stIsconn (p : Params) (s : State) :
    runAt p .stIsconn s = .ok { s with result := .connected (decide (s.connState = .connected)) } := by
  rw [← isConnected_eq]
  rfl

theorem runAt_stTochk {aged : Bool} (h : contactTimedOut p now s.lastContactTimestamp = aged) :
    runAt p (.stTochk now) s = .ok { s with
      connState := if aged then .disconnected else s.connState, result := .timedOut aged } := by
  subst h
  rfl

/-- Settles O31: a contact and a read answer by definition, the check compares the age `contactTimedOut_eq` gives. -/
theorem connectionLatch : Obligations.ConnectionLatch := by
  intro now s
  exact ⟨rfl, exec_eq_next.2 (runAt_stIsconn _ s), exec_eq_next.2 (runAt_stTochk (contactTimedOut_eq _ _ _))⟩

/-! ### Transactions and the supervisor (rules R193, R194, R196, R198) -/

theorem txnTimedOut_eq (period : Period) (now start : Tick) : txnTimedOut period now start =
    decide (3 * period.ms.toNat < (now.toNat + 4294967296 - start.toNat) % 4294967296) := by
  rw [txnTimedOut, elapsed_eq, txnTimeoutFactor]

theorem supervisorTimedOut_eq (p : Params) (now last : Tick) : supervisorTimedOut p now last =
    decide (p.supervisorTimeoutMs < (now.toNat + 4294967296 - last.toNat) % 4294967296) := by
  rw [supervisorTimedOut, elapsed_eq]

theorem toTxn_closed (h : s.txnOpen = false) : toTxn now s = .ok false := by
  rw [toTxn, h]
  rfl

theorem toTxn_open {period : Period} (h : s.txnOpen = true) (hperiod : s.cfg.packetPeriodMs = some period) :
    toTxn now s = .ok (txnTimedOut period now s.packetStartTimestamp) := by
  rw [toTxn, h, hperiod]
  rfl

theorem toTxn_unset (h : s.txnOpen = true) (hperiod : s.cfg.packetPeriodMs = none) : toTxn now s = .error .configUnset := by
  rw [toTxn, h, hperiod]
  rfl

theorem runAt_toTxn {expired : Bool} (h : toTxn now s = .ok expired) :
    runAt p (.toTxn now) s = .ok { s with result := .expired expired } :=
  bind_eq_ok.2 ⟨expired, h, rfl⟩

theorem runAt_toTxn_refused {f : Fault} (h : toTxn now s = .error f) : runAt p (.toTxn now) s = .error f :=
  bind_eq_error.2 (.inl h)

theorem runAt_toSup {expired : Bool} (h : supervisorTimedOut p now s.lastEventTimestamp = expired) :
    runAt p (.toSup now) s = .ok { s with result := .expired expired } := by
  subst h
  rfl

/-- Settles O32: the three answers of `toTxn`, and the two strict comparisons by `txnTimedOut_eq` and `supervisorTimedOut_eq`. -/
theorem transactionAndSupervisor : Obligations.TransactionAndSupervisor := by
  intro now s
  refine ⟨rfl, rfl, ?closed, ?opened, ?unset, ?supervisor⟩
  case closed => exact fun h => exec_eq_next.2 (runAt_toTxn (toTxn_closed h))
  case opened =>
    intro period h hperiod
    rw [← txnTimedOut_eq]
    exact exec_eq_next.2 (runAt_toTxn (toTxn_open h hperiod))
  case unset => exact fun h hperiod => exec_eq_fault.2 (runAt_toTxn_refused (toTxn_unset h hperiod))
  case supervisor => exact exec_eq_next.2 (runAt_toSup (supervisorTimedOut_eq _ _ _))

end Sys2Proof.Machine
end

section
/-! SUPPORT. Posting an event, the transition table, and the cascade of one event (43_link_sequencer.md section 2). -/

namespace Sys2Proof.Machine

variable {p : Params} {s t : State} {now : Tick} {e e' : Event} {st : FsmState}

/-! ### Event codes (rule R92) -/

theorem exists_eventCode_eq {n : Nat} (h : n ≤ 8) : ∃ e, eventCode e = n := by
  interval_cases n
  exacts [⟨.initializeLink, rfl⟩, ⟨.initialized, rfl⟩, ⟨.internalInterrupt, rfl⟩, ⟨.rxComplete, rfl⟩, ⟨.txStart, rfl⟩,
    ⟨.rxMode, rfl⟩, ⟨.timeout, rfl⟩, ⟨.error, rfl⟩, ⟨.fatalError, rfl⟩]

theorem eventOfCode_of_gt {n : Nat} (h : 8 < n) : eventOfCode n = none := by
  match n, h with
  | _ + 9, _ => rfl

/-! ### Posting (rule R212) -/

theorem runAt_evPost (p : Params) (e : Event) (s : State) :
    runAt p (.evPost (eventCode e)) s = .ok ((evPost p e s).2.withResult (.ok (evPost p e s).1)) := by
  cases e <;> rfl

theorem runAt_evPost_refused {n : Nat} (h : eventOfCode n = none) : runAt p (.evPost n) s = .error .badOperand := by
  rw [runAt, runEvPost, h]

/-- Settles O37: the two branches of `evPost`, and the codes that name no event. -/
theorem eventPost : Obligations.EventPost := by
  intro event s
  refine ⟨?room, ?full, ?illegal⟩
  case room =>
    intro hcode hroom
    obtain ⟨e, rfl⟩ := exists_eventCode_eq hcode
    refine ⟨e, rfl, exec_eq_next.2 ?_⟩
    rw [runAt_evPost, evPost_free hroom]
    rfl
  case full =>
    intro hcode hfull
    obtain ⟨e, rfl⟩ := exists_eventCode_eq hcode
    rw [exec_eq_next, runAt_evPost, evPost_full hfull]
    rfl
  case illegal => exact fun hcode => exec_eq_fault.2 (runAt_evPost_refused (eventOfCode_of_gt hcode))

/-! ### How long a cascade can be (the derived property of rule R213) -/

/-- The transitions that can still follow once a state has been entered: an interrupt can raise `Error`, which initialises, and an
initialisation ends in `RxMode` or `FatalError`. -/
def followUps : FsmState → Nat
  | .uninitialized | .rxMode | .fatalError => 0
  | .initializing | .txStart | .timeout => 1
  | .error => 2
  | .rxData | .txData => 3

/-- The transitions the cascade of an event in a state can take. -/
def cascadeLength (st : FsmState) (e : Event) : Nat := (transition st e).elim 0 fun st' => followUps st' + 1

theorem cascadeLength_of_transition {st' : FsmState} (h : transition st e = some st') :
    cascadeLength st e = followUps st' + 1 := by
  rw [cascadeLength, h]
  rfl

theorem transition_of_cascadeLength_zero (h : cascadeLength st e = 0) : transition st e = none := by
  cases hst : transition st e with
  | none => rfl
  | some st' => rw [cascadeLength_of_transition hst] at h; cases h

theorem cascadeLength_le_bound (st : FsmState) (e : Event) : cascadeLength st e ≤ cascadeBound := by
  have hfollow : ∀ st', followUps st' ≤ 3 := fun st' => by cases st' <;> decide
  cases h : transition st e with
  | none => rw [cascadeLength, h]; exact Nat.zero_le _
  | some st' => rw [cascadeLength_of_transition h]; exact Nat.succ_le_succ (hfollow st')

/-- An event that an entry action returns is taken. -/
theorem transition_returned (st : FsmState) : ∀ e ∈ returned st, (transition st e).isSome = true := by
  cases st <;> decide

theorem cascadeLength_returned (st : FsmState) : ∀ e ∈ returned st, cascadeLength st e ≤ followUps st := by
  cases st <;> decide

/-- What an entry action returns is taken in the state it leaves, and shortens the cascade. -/
theorem entryAction_continues (h : entryAction p now st { s with fsmState := st } = .ok (some e', t)) :
    (transition t.fsmState e').isSome = true ∧ cascadeLength t.fsmState e' ≤ followUps st := by
  have hst : t.fsmState = st := entryAction_fsmState h
  rw [hst]
  exact ⟨transition_returned st e' (entryAction_next h), cascadeLength_returned st e' (entryAction_next h)⟩

/-- Two bounds that do not cut the cascade short give the same. -/
theorem cascade_eq_of_length_le {n m : Nat} (hn : cascadeLength s.fsmState e ≤ n) (hm : cascadeLength s.fsmState e ≤ m) :
    cascade p now n e s = cascade p now m e s := by
  induction n generalizing m e s with
  | zero =>
    have hnone := transition_of_cascadeLength_zero (Nat.le_zero.1 hn)
    rw [cascade_none hnone, cascade_none hnone]
  | succ n ih =>
    cases ht : transition s.fsmState e with
    | none => rw [cascade_none ht, cascade_none ht]
    | some st =>
      rw [cascadeLength_of_transition ht] at hn hm
      obtain ⟨m, rfl⟩ := Nat.exists_eq_add_of_lt hm
      rw [cascade_succ ht, cascade_succ ht]
      match hu : entryAction p now st { s with fsmState := st } with
      | .error _ | .ok (none, _) => rfl
      | .ok (some e', u) =>
        have hlen : cascadeLength u.fsmState e' ≤ followUps st := (entryAction_continues hu).2
        exact ih (hlen.trans (Nat.le_of_succ_le_succ hn)) (hlen.trans (Nat.le_add_right _ m))

/-! ### One event (rule R213) -/

theorem evStep_dropped (h : transition s.fsmState e = none) : evStep p e now s = .ok s := cascade_none h

theorem evStep_of_transition (h : transition s.fsmState e = some st) :
    evStep p e now s = (entryAction p now st { s with fsmState := st } >>= fun r =>
      match r.1 with
      | none => .ok r.2
      | some e' => cascade p now 3 e' r.2) := cascade_succ h

/-- An entry action that returns no event ends the cascade. -/
theorem evStep_rests (h : transition s.fsmState e = some st)
    (hentry : entryAction p now st { s with fsmState := st } = .ok (none, t)) : evStep p e now s = .ok t := by
  rw [evStep_of_transition h, hentry]
  rfl

/-- The event an entry action returns is processed like one that was injected: three transitions are enough for the rest. -/
theorem evStep_continues (h : transition s.fsmState e = some st)
    (hentry : entryAction p now st { s with fsmState := st } = .ok (some e', t)) :
    evStep p e now s = evStep p e' now t := by
  have hrest : cascadeLength t.fsmState e' ≤ 3 := by
    have hlen := cascadeLength_le_bound s.fsmState e
    rw [cascadeLength_of_transition h] at hlen
    exact (entryAction_continues hentry).2.trans (Nat.le_of_succ_le_succ hlen)
  rw [evStep_of_transition h, hentry]
  exact cascade_eq_of_length_le hrest (Nat.le_succ_of_le hrest)

theorem evStep_refused {f : Fault} (h : transition s.fsmState e = some st)
    (hentry : entryAction p now st { s with fsmState := st } = .error f) : evStep p e now s = .error f := by
  rw [evStep_of_transition h, hentry]
  rfl

/-! ### One event as an operation -/

theorem exec_evStep_eq_next : exec (.evStep (eventCode e) now) s = .next t ↔
    ∃ u, evStep Config.params e now s = .ok u ∧ { u with result := .none } = t := by
  rw [exec_evStep, finish_eq_next, bind_eq_ok]
  simp only [Except.ok.injEq]
  rfl

theorem exec_evStep_eq_fault {f : Fault} :
    exec (.evStep (eventCode e) now) s = .fault f ↔ evStep Config.params e now s = .error f := by
  rw [exec_evStep, finish_eq_fault, bind_eq_error]
  simp only [reduceCtorEq, and_false, exists_false, or_false]

theorem exec_evStep_ok (h : evStep Config.params e now s = .ok t) :
    exec (.evStep (eventCode e) now) s = .next { t with result := .none } :=
  exec_evStep_eq_next.2 ⟨t, h, rfl⟩

theorem exec_evStep_congr (h : evStep Config.params e now s = evStep Config.params e' now t) :
    exec (.evStep (eventCode e) now) s = exec (.evStep (eventCode e') now) t := by
  rw [exec_evStep, exec_evStep, h]

theorem runAt_evStep_refused {n : Nat} (h : eventOfCode n = none) : runAt p (.evStep n now) s = .error .badOperand := by
  rw [runAt, runEvStep, h]

/-- Settles O38: the table is compared cell by cell; an event without a cell is `evStep_dropped`. -/
theorem transitionTable : Obligations.TransitionTable := by
  refine ⟨?cells, ?dropped, ?illegal⟩
  case cells => intro st e; cases st <;> cases e <;> rfl
  case dropped => exact fun e now s h => exec_evStep_ok (evStep_dropped h)
  case illegal => exact fun event now s h => exec_eq_fault.2 (runAt_evStep_refused (eventOfCode_of_gt h))

/-- Settles O39: `evStep_rests`, `evStep_continues` and `evStep_refused`; `cascadeLength_le_bound` for the bound of four. -/
theorem cascadeRule : Obligations.CascadeRule := by
  refine ⟨fun e now st s t h => ⟨?rests, ?continues, ?refused⟩, ?bound⟩
  case rests => exact fun hentry => exec_evStep_ok (evStep_rests h hentry)
  case continues => exact fun e' hentry => exec_evStep_congr (evStep_continues h hentry)
  case refused => exact fun f hentry => exec_evStep_eq_fault.2 (evStep_refused h hentry)
  case bound =>
    intro p e now n s hn
    have hlen := cascadeLength_le_bound s.fsmState e
    exact cascade_eq_of_length_le (hlen.trans hn) hlen

end Sys2Proof.Machine
end

section
/-! SUPPORT. Where the sequencer rests, and the failure indication (10_state.md rule R27, 43_link_sequencer.md rules R215, R227). -/

namespace Sys2Proof.Machine

variable {p : Params} {s t : State} {now : Tick} {e : Event} {st : FsmState} {P : State → Prop}

/-! ### Invariants of the sequencer's state and the failure indication -/

/-- What every transition keeps together with its entry action, an event keeps with its whole cascade. -/
theorem evStep_keeps_of_transition (htransition : ∀ s t e st next, transition s.fsmState e = some st →
    entryAction p now st { s with fsmState := st } = .ok (next, t) → P s → P t) (h : evStep p e now s = .ok t) (hs : P s) :
    P t := by
  suffices ∀ n, cascade p now n e s = .ok t → P t from this cascadeBound h
  intro n hn
  clear h
  induction n generalizing e s with
  | zero => cases hn; exact hs
  | succ n ih =>
    cases hst : transition s.fsmState e with
    | none => rw [cascade_none hst] at hn; cases hn; exact hs
    | some st =>
      obtain ⟨next, u, hu, hn⟩ := (cascade_succ_eq_ok hst).1 hn
      have hPu : P u := htransition s u e st next hst hu hs
      cases next with
      | none => rw [hn]; exact hPu
      | some e' => exact ih hPu hn

/-- An invariant of `fsmState` and `fatal` alone that every event keeps. -/
structure SequencerKept (p : Params) (P : State → Prop) : Prop where
  congr : ∀ {s t : State}, P s → t.fsmState = s.fsmState → t.fatal = s.fatal → P t
  event : ∀ s t e now, evStep p e now s = .ok t → P s → P t

theorem drain_keeps_sequencer (k : SequencerKept p P) {es : List Event} (h : drain p now es s = .ok t) (hs : P s) : P t := by
  induction es generalizing s with
  | nil => cases h; exact hs
  | cons e es ih =>
    rw [drain_cons] at h
    obtain ⟨u, hu, h⟩ := bind_eq_ok.1 h
    have htaken : P { s with eventQueue := es, lastEventTimestamp := now } := k.congr hs rfl rfl
    split at hu
    · cases hu; exact ih h htaken
    · exact ih h (k.event _ _ _ _ hu htaken)

theorem tickEvents_keeps_sequencer (k : SequencerKept p P) (h : tickEvents p now s = .ok t) (hs : P s) : P t := by
  unfold tickEvents at h
  split at h
  · exact drain_keeps_sequencer k h (k.congr hs rfl rfl)
  · split at h
    · exact k.event _ _ _ _ h (k.congr hs rfl rfl)
    · cases h; exact hs

theorem tickHop_keeps_sequencer (k : SequencerKept p P) (h : tickHop p now s = .ok t) (hs : P s) : P t := by
  obtain ⟨⟨c, changed, u⟩, hu, h⟩ := bind_eq_ok.1 h
  have hPu : P u := k.congr hs (by rw [hopEval_frame hu]) (by rw [hopEval_frame hu])
  cases changed
  · cases h; exact hPu
  · exact k.event _ _ _ _ h (k.congr hPu rfl rfl)

theorem tickTxn_keeps_sequencer (k : SequencerKept p P) (h : tickTxn p now s = .ok t) (hs : P s) : P t := by
  obtain ⟨expired, -, h⟩ := bind_eq_ok.1 h
  cases expired
  · cases h; exact hs
  · exact k.event _ _ _ _ h hs

theorem tickTurn_keeps_sequencer (k : SequencerKept p P) (h : tickTurn p now s = .ok t) (hs : P s) : P t := by
  unfold tickTurn at h
  split at h
  · obtain ⟨turn, -, h⟩ := bind_eq_ok.1 h
    cases turn
    · cases h; exact hs
    · exact k.event _ _ _ _ h hs
  · cases h; exact hs

/-- The driving loop moves the sequencer by events only (rule R216). -/
theorem loopTick_keeps_sequencer (k : SequencerKept p P) (h : loopTick p now s = .ok t) (hs : P s) : P t := by
  obtain ⟨u, hu, ht⟩ := loopTick_cases h
  have hPu := tickEvents_keeps_sequencer k hu hs
  obtain rfl | ⟨v, w, hv, hw, ht⟩ := ht
  · exact hPu
  · exact tickTurn_keeps_sequencer k ht (tickTxn_keeps_sequencer k hw (tickHop_keeps_sequencer k hv hPu))

theorem touch_fatal (h : Touch p s t) : t.fatal = s.fatal := by rw [touch_frame h]

/-- No operation but the sequencer's own writes `fsmState` or `fatal`. -/
theorem SequencerKept.keptByStep (k : SequencerKept p P) : KeptByStep p P where
  touch _ _ h hs := k.congr hs (touch_fsmState h) (touch_fatal h)
  event := k.event
  tick _ _ _ h hs := loopTick_keeps_sequencer k h hs
  hop _ _ _ _ _ h hs := k.congr hs (by rw [hopEval_frame h]) (by rw [hopEval_frame h])
  configure _ _ _ _ _ hs := k.congr hs (by rw [configured_frame]) (by rw [configured_frame])
  generate _ _ _ hs := k.congr hs rfl rfl
  post _ _ hs := k.congr hs (by rw [evPost_frame]) (by rw [evPost_frame])
  stream _ _ _ hs := k.congr hs (by rw [setTxQueue_frame]) (by rw [setTxQueue_frame])
  plain _ _ _ _ _ hs := k.congr hs rfl rfl

/-! ### The failure indication (rules R27, R227) -/

theorem transition_fatalError (e : Event) : transition .fatalError e = none := by cases e <;> rfl

theorem transition_from_ne_fatalError (h : transition s.fsmState e = some st) : s.fsmState ≠ .fatalError := by
  intro hfatal
  rw [hfatal, transition_fatalError] at h
  cases h

/-- The entry action of `FatalError` alone writes the indication. -/
theorem entryAction_fatal {next : Option Event} (h : entryAction p now st s = .ok (next, t)) :
    t.fatal = if st = .fatalError then true else s.fatal := by
  obtain ⟨hno, htouches⟩ | ⟨f, hf, -, rfl⟩ := entryAction_cases h
  · have hst : st ≠ .fatalError := by rintro rfl; cases hno
    rw [if_neg hst]
    exact htouches.keeps (P := fun u => u.fatal = s.fatal) (fun _ _ hu hs => (touch_fatal hu).trans hs) rfl
  · cases st <;> cases hf <;> rfl

theorem fatal_iff_sequencerKept : SequencerKept p fun s => s.fatal = true ↔ s.fsmState = .fatalError where
  congr hs hst hfatal := by rw [hst, hfatal]; exact hs
  event s t e now h hs := by
    refine evStep_keeps_of_transition (P := fun s => s.fatal = true ↔ s.fsmState = .fatalError)
      (fun s t e st next hst hentry hs => ?_) h hs
    have hnot : ¬ s.fatal = true := fun h => transition_from_ne_fatalError hst (hs.1 h)
    rw [entryAction_fatal hentry, entryAction_fsmState hentry]
    by_cases hfatal : st = .fatalError <;> simp [hfatal, hnot]

/-! ### Resting (rule R215) -/

/-- The transient states' entry actions always return an event. -/
theorem resting_of_entryAction_none (h : entryAction p now st s = .ok (none, t)) : resting st = true := by
  cases st with
  | uninitialized | rxMode | rxData | txStart | txData | fatalError => rfl
  | timeout | error => cases h
  | initializing =>
    simp only [entryAction, enterInitializing] at h
    split at h
    · simp only [bind_eq_ok, pure_eq_ok] at h
      obtain ⟨_, -, _, -, _, -, h⟩ := h
      cases h
    · cases h

/-- A cascade not cut short ends in a resting state once it has moved. -/
theorem cascade_resting {n : Nat} (hlen : cascadeLength s.fsmState e ≤ n) (hmoves : (transition s.fsmState e).isSome = true)
    (h : cascade p now n e s = .ok t) : resting t.fsmState = true := by
  induction n generalizing e s with
  | zero =>
    rw [transition_of_cascadeLength_zero (Nat.le_zero.1 hlen)] at hmoves
    cases hmoves
  | succ n ih =>
    obtain ⟨st, hst⟩ := Option.isSome_iff_exists.1 hmoves
    rw [cascadeLength_of_transition hst] at hlen
    obtain ⟨next, u, hu, h⟩ := (cascade_succ_eq_ok hst).1 h
    cases next with
    | none => rw [h, entryAction_fsmState hu]; exact resting_of_entryAction_none hu
    | some e' =>
      obtain ⟨hmoves', hlen'⟩ := entryAction_continues hu
      exact ih (hlen'.trans (Nat.le_of_succ_le_succ hlen)) hmoves' h

theorem resting_sequencerKept : SequencerKept p fun s => resting s.fsmState = true where
  congr hs hst _ := by rw [hst]; exact hs
  event s t e now h hs := by
    cases hst : transition s.fsmState e with
    | none => rw [evStep_dropped hst] at h; cases h; exact hs
    | some st => exact cascade_resting (cascadeLength_le_bound _ _) (by rw [hst]; rfl) h

/-- Settles O59: both halves are invariants of the sequencer alone, kept by every event. -/
theorem stepKeepsSequencerAtRest : Obligations.StepKeepsSequencerAtRest := by
  intro s t ⟨hrests, hfatal⟩ h
  exact ⟨step_keeps resting_sequencerKept.keptByStep h hrests, step_keeps fatal_iff_sequencerKept.keptByStep h hfatal⟩

/-- No event leaves `FatalError`. -/
theorem fatalError_sequencerKept : SequencerKept p fun s => s.fsmState = .fatalError where
  congr hs hst _ := hst.trans hs
  event _ _ e _ h hs := by
    rw [evStep_dropped (hs ▸ transition_fatalError e)] at h
    cases h
    exact hs

end Sys2Proof.Machine
end

section
/-! SUPPORT. The transport's answers, and the events that end in one or two transitions: `RxMode`, `Timeout`, `Initialize`, `Error` and
`FatalError` (43_link_sequencer.md section 3, rules R220, R221, R225 to R227). -/

namespace Sys2Proof.Machine

variable {p : Params} {s t : State} {now : Tick} {e : Event} {used : Nat}

/-! ### A transport call and its answer (rule R252) -/

theorem takeAnswer_eq {α : Type} {supplied rest : List α} {free : Nat → α} {keep : List α → Answers} {a : α}
    (h : AnswerTaken supplied free s.freeCount a rest used) (hkeep : keep supplied = s.answers) :
    takeAnswer supplied free keep s = (a, { s with answers := keep rest, freeCount := used }) := by
  obtain ⟨rfl, rfl⟩ | ⟨rfl, rfl, rfl, rfl⟩ := h
  · rfl
  · rw [hkeep]; rfl

theorem callResetAndIdentify_eq {idOk : Bool} {rest : List Bool}
    (h : AnswerTaken s.answers.idOk Config.freeIdOk s.freeCount idOk rest used) :
    callResetAndIdentify s = (idOk, { s with
      answers := { s.answers with idOk := rest }, freeCount := used, trace := s.trace ++ [.resetAndIdentify] }) :=
  takeAnswer_eq (s := emit .resetAndIdentify s) h rfl

theorem callReadStatus_eq {status : StatusAnswer} {rest : List StatusAnswer}
    (h : AnswerTaken s.answers.status Config.freeStatus s.freeCount status rest used) :
    callReadStatus s = (status, { s with
      answers := { s.answers with status := rest }, freeCount := used, trace := s.trace ++ [.readStatusRegisters] }) :=
  takeAnswer_eq (s := emit .readStatusRegisters s) h rfl

theorem callPollRx_eq {answer : RxAnswer} {rest : List RxAnswer}
    (h : AnswerTaken s.answers.rx Config.freeRx s.freeCount answer rest used) :
    callPollRx s = (answer, { s with
      answers := { s.answers with rx := rest }, freeCount := used, trace := s.trace ++ [.pollRx] }) :=
  takeAnswer_eq (s := emit .pollRx s) h rfl

theorem callPollTx_eq {answer : TxAnswer} {rest : List TxAnswer}
    (h : AnswerTaken s.answers.tx Config.freeTx s.freeCount answer rest used) :
    callPollTx s = (answer, { s with
      answers := { s.answers with tx := rest }, freeCount := used, trace := s.trace ++ [.pollTx] }) :=
  takeAnswer_eq (s := emit .pollTx s) h rfl

/-- The transport is handed as many bytes as it takes at once, at most those left (rule R223). -/
theorem callArmTransmitter_eq {take : BitVec 8} {rest : List (BitVec 8)} (dest : Word32)
    (h : AnswerTaken s.answers.take Config.freeTake s.freeCount take rest used) :
    let sent := min take.toNat (s.pktLen.toNat - s.pktRd.toNat)
    callArmTransmitter dest s = { s with
      answers := { s.answers with take := rest }, freeCount := used, pktRd := BitVec.ofNat 8 (s.pktRd.toNat + sent)
      trace := s.trace ++ [.armTransmitter (Memory.readRange s.pktBuf s.pktRd.toNat sent) dest] } := by
  intro sent
  rw [callArmTransmitter, takeAnswer_eq (keep := fun q => { s.answers with take := q }) h rfl]
  rfl

/-! ### Back to reception (rules R221, R225) -/

/-- A node that has armed its receiver. -/
def listening (s : State) : State := { s with
  fsmState := .rxMode, pktLen := 0, pktRd := 0, txnOpen := false, trace := s.trace ++ [.armReceiver] }

theorem evStep_enters_rxMode (h : transition s.fsmState e = some .rxMode) : evStep p e now s = .ok (listening s) :=
  evStep_rests h rfl

/-- The running states of the sequencer (rule R216). -/
theorem linkRunning_of_mem {st : FsmState} (h : st ∈ [FsmState.rxMode, .rxData, .txStart, .txData]) : linkRunning st = true := by
  have hrunning : ∀ st ∈ [FsmState.rxMode, .rxData, .txStart, .txData], linkRunning st = true := by decide
  exact hrunning st h

/-- The events every running state takes alike (rule R215). -/
theorem transition_of_running {st : FsmState} (h : linkRunning st = true) :
    transition st .rxMode = some .rxMode ∧ transition st .timeout = some .timeout ∧ transition st .error = some .error := by
  cases st with
  | rxMode | rxData | txStart | txData => exact ⟨rfl, rfl, rfl⟩
  | uninitialized | initializing | timeout | error | fatalError => cases h

theorem evStep_rxMode (h : linkRunning s.fsmState = true) : evStep p .rxMode now s = .ok (listening s) :=
  evStep_enters_rxMode (transition_of_running h).1

theorem evStep_timeout (h : linkRunning s.fsmState = true) :
    evStep p .timeout now s = .ok (listening { s with timeouts := s.timeouts + 1 }) :=
  (evStep_continues (transition_of_running h).2.1 rfl).trans (evStep_enters_rxMode rfl)

/-- Settles O40: `evStep_timeout`, and `evStep_enters_rxMode` from each of the states. -/
theorem timeoutAndRxModeEvents : Obligations.TimeoutAndRxModeEvents := by
  intro now s
  refine ⟨?timeout, ?rxMode⟩
  case timeout => exact fun h => exec_evStep_ok (e := .timeout) (evStep_timeout (linkRunning_of_mem h))
  case rxMode =>
    intro h
    have hmove : ∀ st ∈ [FsmState.rxMode, .rxData, .txStart, .txData, .timeout],
        transition st .rxMode = some .rxMode := by decide
    exact exec_evStep_ok (e := .rxMode) (evStep_enters_rxMode (hmove _ h))

/-! ### Initialisation and faults (rules R220, R226, R227) -/

theorem evStep_fatalError (h : transition s.fsmState .fatalError = some .fatalError) : evStep p .fatalError now s = .ok { s with
    fsmState := .fatalError, pktLen := 0, pktRd := 0, txnOpen := false, fatal := true } :=
  evStep_rests h rfl

theorem evStep_error (h : transition s.fsmState .error = some .error) :
    evStep p .error now s = evStep p .initializeLink now { s with
      fsmState := .error, pktLen := 0, pktRd := 0, txnOpen := false, resets := s.resets + 1 } :=
  evStep_continues h rfl

/-- The block-side reset, with the chip's identification asked for and answered. -/
def identified (rest : List Bool) (used : Nat) (s : State) : State := { initBlock s with
  fsmState := .initializing, answers := { s.answers with idOk := rest }, freeCount := used
  trace := s.trace ++ [.resetAndIdentify] }

section
variable {rest : List Bool} {deviceId peerId datarate : Word32}

theorem callResetAndIdentify_initBlock {idOk : Bool} (h : AnswerTaken s.answers.idOk Config.freeIdOk s.freeCount idOk rest used) :
    callResetAndIdentify (initBlock { s with fsmState := .initializing }) = (idOk, identified rest used s) :=
  callResetAndIdentify_eq (s := initBlock { s with fsmState := .initializing }) h

theorem evStep_initialize_fails (hmove : transition s.fsmState .initializeLink = some .initializing)
    (h : AnswerTaken s.answers.idOk Config.freeIdOk s.freeCount false rest used) :
    evStep p .initializeLink now s = .ok { identified rest used s with fsmState := .fatalError, fatal := true } := by
  have hentry : entryAction p now .initializing { s with fsmState := .initializing } =
      .ok (some .fatalError, identified rest used s) := by
    rw [entryAction, enterInitializing, callResetAndIdentify_initBlock h]
    rfl
  exact (evStep_continues hmove hentry).trans (evStep_fatalError rfl)

theorem evStep_initialize_succeeds (hmove : transition s.fsmState .initializeLink = some .initializing)
    (h : AnswerTaken s.answers.idOk Config.freeIdOk s.freeCount true rest used) (hdevice : s.cfg.deviceId = some deviceId)
    (hpeer : s.cfg.peerId = some peerId) (hrate : s.cfg.datarate = some datarate) :
    evStep p .initializeLink now s = .ok (listening (emit (.configure deviceId peerId datarate) (identified rest used s))) := by
  have hentry : entryAction p now .initializing { s with fsmState := .initializing } =
      .ok (some .initialized, emit (.configure deviceId peerId datarate) (identified rest used s)) := by
    have hcfg : (identified rest used s).cfg = s.cfg := rfl
    rw [entryAction, enterInitializing, callResetAndIdentify_initBlock h]
    simp only [if_true, hcfg, hdevice, hpeer, hrate, need_some, ok_bind, pure_eq_ok]
  exact (evStep_continues hmove hentry).trans (evStep_enters_rxMode rfl)

theorem evStep_initialize_unset (hmove : transition s.fsmState .initializeLink = some .initializing)
    (h : AnswerTaken s.answers.idOk Config.freeIdOk s.freeCount true rest used)
    (hunset : s.cfg.deviceId = none ∨ s.cfg.peerId = none ∨ s.cfg.datarate = none) :
    evStep p .initializeLink now s = .error .configUnset := by
  refine evStep_refused hmove ?_
  rw [entryAction, enterInitializing, callResetAndIdentify_initBlock h]
  have hcfg : (identified rest used s).cfg = s.cfg := rfl
  simp only [if_true, hcfg]
  cases hdevice : s.cfg.deviceId with
  | none => rfl
  | some _ =>
    cases hpeer : s.cfg.peerId with
    | none => rfl
    | some _ =>
      cases hrate : s.cfg.datarate with
      | none => rfl
      | some _ => rw [hdevice, hpeer, hrate] at hunset; simp at hunset

end

/-- Settles O41: the three answers of `evStep_initialize_succeeds`, `evStep_initialize_unset` and `evStep_initialize_fails`. -/
theorem initializeEvent : Obligations.InitializeEvent := by
  intro now s idOk rest used hst h
  have hmoves : ∀ st ∈ [FsmState.uninitialized, .rxMode, .rxData, .txStart, .txData, .timeout, .error],
      transition st .initializeLink = some .initializing := by decide
  have hmove := hmoves _ hst
  refine ⟨?succeeds, ?unset, ?fails⟩
  case succeeds =>
    rintro deviceId peerId datarate rfl hdevice hpeer hrate
    rw [List.append_cons, List.append_cons]
    exact exec_evStep_ok (e := .initializeLink) (evStep_initialize_succeeds hmove h hdevice hpeer hrate)
  case unset =>
    rintro rfl hunset
    exact (exec_evStep_eq_fault (e := .initializeLink)).2 (evStep_initialize_unset hmove h hunset)
  case fails =>
    rintro rfl
    exact exec_evStep_ok (e := .initializeLink) (evStep_initialize_fails hmove h)

/-- Settles O42: `evStep_error`. -/
theorem errorEvent : Obligations.ErrorEvent := by
  intro now s hst
  have hmove : ∀ st ∈ [FsmState.initializing, .rxMode, .rxData, .txStart, .txData, .timeout],
      transition st .error = some .error := by decide
  exact exec_evStep_congr (e := .error) (e' := .initializeLink) (evStep_error (hmove _ hst))

/-- Settles O43: `evStep_fatalError`, and the invariant `fatalError_sequencerKept`. -/
theorem fatalErrorIsTerminal : Obligations.FatalErrorIsTerminal := by
  refine ⟨?halts, ?terminal⟩
  case halts =>
    intro now s hst
    have hmove : ∀ st ∈ [FsmState.initializing, .rxMode, .rxData, .txStart, .txData, .timeout, .error],
        transition st .fatalError = some .fatalError := by decide
    exact exec_evStep_ok (e := .fatalError) (evStep_fatalError (hmove _ hst))
  case terminal => exact fun s t hst h => step_keeps fatalError_sequencerKept.keptByStep h hst

end Sys2Proof.Machine
end

section
/-! SUPPORT. An interrupt during a reception or a transmission, and the start of a transmission (43_link_sequencer.md section 3, rules
R222 to R224, 30_encoding.md rule R100, 44_config_and_host.md rule R246). -/

namespace Sys2Proof.Machine

variable {p : Params} {s t u v : State} {now : Tick} {status : StatusAnswer} {statusRest : List StatusAnswer} {used used' : Nat}

/-! ### The moves of an interrupt (rule R215) -/

theorem transition_interrupt_reception {st : FsmState} (h : st ∈ [FsmState.rxMode, .rxData]) :
    transition st .internalInterrupt = some .rxData := by
  have hmoves : ∀ st ∈ [FsmState.rxMode, .rxData], transition st .internalInterrupt = some .rxData := by decide
  exact hmoves st h

theorem transition_interrupt_transmission {st : FsmState} (h : st ∈ [FsmState.txStart, .txData]) :
    transition st .internalInterrupt = some .txData := by
  have hmoves : ∀ st ∈ [FsmState.txStart, .txData], transition st .internalInterrupt = some .txData := by decide
  exact hmoves st h

/-! ### The status read (rules R222, R224, R262) -/

/-- The state with the status registers read and the answer taken. -/
def statusRead (rest : List StatusAnswer) (used : Nat) (s : State) : State := { s with
  answers := { s.answers with status := rest }, freeCount := used, trace := s.trace ++ [.readStatusRegisters] }

section
variable (hstatus : AnswerTaken s.answers.status Config.freeStatus s.freeCount status statusRest used)
include hstatus

theorem enterRxData_reset (hreset : status.ok = false) : enterRxData p now s = .ok (some .error, statusRead statusRest used s) := by
  rw [enterRxData, callReadStatus_eq hstatus]
  simp only [hreset, Bool.false_eq_true, if_false]
  rfl

theorem enterTxData_reset (hreset : status.ok = false) : enterTxData s = (some .error, statusRead statusRest used s) := by
  rw [enterTxData, callReadStatus_eq hstatus]
  simp only [hreset, Bool.false_eq_true, if_false]
  rfl

end

/-- Settles O44: both entry actions return `Error` when the status is not ok. -/
theorem transceiverResetRaisesError : Obligations.TransceiverResetRaisesError := by
  intro now s status rest used hst hstatus hreset
  obtain hrx | htx := List.mem_append (s := [FsmState.rxMode, .rxData]) (t := [.txStart, .txData]).1 hst
  · rw [if_pos (by simpa using hrx)]
    exact exec_evStep_congr (e := .internalInterrupt) (e' := .error)
      (evStep_continues (transition_interrupt_reception hrx) (enterRxData_reset hstatus hreset))
  · have hside : ∀ st ∈ [FsmState.txStart, .txData], ¬ (st = .rxMode ∨ st = .rxData) := by decide
    rw [if_neg (hside _ htx)]
    exact exec_evStep_congr (e := .internalInterrupt) (e' := .error)
      (evStep_continues (transition_interrupt_transmission htx) (congrArg Except.ok (enterTxData_reset hstatus hreset)))

/-! ### Reception: the poll (rule R222) -/

/-- A reception whose transaction is open, with the transport polled and both answers taken. -/
def rxPolled (now : Tick) (statusRest : List StatusAnswer) (rxRest : List RxAnswer) (used : Nat) (s : State) : State := { s with
  fsmState := .rxData, packetStartTimestamp := if s.txnOpen then s.packetStartTimestamp else now, txnOpen := true
  answers := { s.answers with status := statusRest, rx := rxRest }, freeCount := used
  trace := s.trace ++ [.readStatusRegisters, .pollRx] }

theorem txnOpen_if_closed (now : Tick) (s : State) : (if s.txnOpen then s else txnOpen now s) = { s with
    packetStartTimestamp := if s.txnOpen then s.packetStartTimestamp else now, txnOpen := true } := by
  cases h : s.txnOpen
  · rfl
  · simp only [if_true]; rw [← h]

theorem trace_append_two (s : State) (o o' : Output) : s.trace ++ [o, o'] = s.trace ++ [o] ++ [o'] := List.append_cons ..

theorem enterRxData_of_status (hread : callReadStatus s = (status, t)) (hok : status.ok = true) :
    let opened : State := { t with packetStartTimestamp := if t.txnOpen then t.packetStartTimestamp else now, txnOpen := true }
    enterRxData p now s = onPollRx p now (callPollRx opened).1 (callPollRx opened).2 := by
  rw [enterRxData, hread]
  simp only [hok, if_true, txnOpen_if_closed]

theorem entryAction_rxData {answer : RxAnswer} {rxRest : List RxAnswer}
    (hstatus : AnswerTaken s.answers.status Config.freeStatus s.freeCount status statusRest used) (hok : status.ok = true)
    (hrx : AnswerTaken s.answers.rx Config.freeRx used answer rxRest used') :
    entryAction p now .rxData { s with fsmState := .rxData } = onPollRx p now answer (rxPolled now statusRest rxRest used' s) := by
  have hread := callReadStatus_eq (s := { s with fsmState := .rxData }) hstatus
  rw [entryAction, enterRxData_of_status hread hok, callPollRx_eq hrx, rxPolled, trace_append_two]

/-! ### Reception: the bytes (rules R135, R222) -/

/-- The bytes appended to the buffer. -/
def appended (bytes : List Byte) (s : State) : State := { s with
  pktBuf := Memory.writeRange s.pktBuf s.pktLen.toNat bytes, pktLen := BitVec.ofNat 8 (s.pktLen.toNat + bytes.length) }

theorem appended_nil (s : State) : appended [] s = s := by
  simp [appended, Memory.writeRange]

theorem pullBytes_fits {bytes : List Byte}
    (h : bytes = [] ∨ ∃ maxLen, s.cfg.maxPacketLen = some maxLen ∧ s.pktLen.toNat + bytes.length ≤ maxLen.toNat) :
    pullBytes bytes s = .ok (true, appended bytes s) := by
  rcases bytes with _ | ⟨b, bs⟩
  · rw [appended_nil]; rfl
  · obtain h | ⟨maxLen, hmax, hfits⟩ := h
    · cases h
    · simp only [pullBytes, List.isEmpty_cons, Bool.false_eq_true, if_false, hmax, need_some, ok_bind, pure_eq_ok, bufPush_room hfits]
      rfl

theorem pullBytes_overflow {bytes : List Byte} {maxLen : BitVec 8} (hne : bytes ≠ []) (hmax : s.cfg.maxPacketLen = some maxLen)
    (hlong : maxLen.toNat < s.pktLen.toNat + bytes.length) : pullBytes bytes s = .ok (false, s) := by
  rw [pullBytes, if_neg (by simpa using hne), hmax, need_some, ok_bind, bufPush_no_room hlong]
  rfl

theorem onPollRx_more {bytes : List Byte} (hpull : pullBytes bytes s = .ok (true, t)) :
    onPollRx p now (.moreDataPending bytes) s = .ok (none, t) := by
  rw [onPollRx, hpull]
  rfl

theorem onPollRx_overflow {answer : RxAnswer} {bytes : List Byte}
    (hanswer : answer = .moreDataPending bytes ∨ ∃ len, answer = .packetComplete len bytes)
    (hpull : pullBytes bytes s = .ok (false, s)) : onPollRx p now answer s = .ok (some .rxMode, rxFail s) := by
  obtain rfl | ⟨len, rfl⟩ := hanswer <;> rw [onPollRx, hpull] <;> rfl

/-- Settles O45: a failed reception and one too long leave `rxFail`'s state and return `RxMode`; any other waits. -/
theorem receiveContinuesOrFails : Obligations.ReceiveContinuesOrFails := by
  intro now s status answer statusRest rxRest used used' hst hstatus hok hrx polled failed
  have hmove := transition_interrupt_reception hst
  have hentry := entryAction_rxData (p := Config.params) (now := now) hstatus hok hrx
  have waits {t : State} (h : onPollRx Config.params now answer (rxPolled now statusRest rxRest used' s) = .ok (none, t)) :
      exec (.evStep 2 now) s = .next { t with result := .none } :=
    exec_evStep_ok (e := .internalInterrupt) (evStep_rests hmove (hentry.trans h))
  have fails (h : onPollRx Config.params now answer (rxPolled now statusRest rxRest used' s) =
      .ok (some .rxMode, rxFail (rxPolled now statusRest rxRest used' s))) : exec (.evStep 2 now) s = .next failed :=
    exec_evStep_ok (e := .internalInterrupt) ((evStep_continues hmove (hentry.trans h)).trans (evStep_enters_rxMode rfl))
  refine ⟨?nothing, ?more, ?failure, ?overflow⟩
  case nothing => rintro rfl; exact waits rfl
  case more =>
    rintro bytes maxLen rfl hmax hfits
    have hpull : pullBytes bytes (rxPolled now statusRest rxRest used' s) = .ok (true, _) :=
      pullBytes_fits (.inr ⟨maxLen, hmax, hfits⟩)
    exact waits (onPollRx_more hpull)
  case failure => rintro rfl; exact fails rfl
  case overflow =>
    exact fun bytes maxLen hanswer hne hmax hlong => fails (onPollRx_overflow hanswer (pullBytes_overflow hne hmax hlong))

/-! ### Reception: the packet (rule R100 `RX.DONE`) -/

section
variable {len : BitVec 8} {f : ParsedFrame}

theorem rxDone_invalid (hparse : frameParse p len s = .ok (f, u)) (hout : validOutcome f.outcome = false) :
    rxDone p now len s = .ok (f, bufReset (txnClose (stPush f.outcome u))) := by
  rw [rxDone, hparse]
  simp only [ok_bind, hout, Bool.false_eq_true, if_false, pure_eq_ok]

theorem rxDone_valid (hparse : frameParse p len s = .ok (f, u)) (hout : validOutcome f.outcome = true)
    (hvalid : rxValid p now (stPush f.outcome u) = .ok v) : rxDone p now len s = .ok (f, bufReset (txnClose v)) := by
  rw [rxDone, hparse]
  simp only [ok_bind, hout, if_true, hvalid, pure_eq_ok]

/-- Off the synchronisation channel, or on a coordinator, a valid frame is a contact and teaches nothing. -/
theorem rxValid_contact {role : Role} (hrole : s.cfg.role = some role) (h : role = .coordinator ∨ s.channelIndex ≠ 0) :
    rxValid p now s = .ok (contact now s) := by
  have hno : ¬ (role = .peer ∧ s.channelIndex = 0) := by
    rintro ⟨rfl, hindex⟩
    exact h.elim nofun (absurd hindex)
  simp only [rxValid, contact_cfg, contact_channelIndex, hrole, need_some, ok_bind, hno, if_false, pure_eq_ok]

/-- On the synchronisation channel a valid frame teaches a peer the skew (rule R158). -/
theorem rxValid_synchronises {period : Period} {datarate : Word32} (hrole : s.cfg.role = some .peer) (hindex : s.channelIndex = 0)
    (hcount : s.channelCount ≠ 0) (hperiod : s.cfg.packetPeriodMs = some period) (hrate : s.cfg.datarate = some datarate) :
    rxValid p now s = .ok { contact now s with
      clockSkewMs := learnedSkew period s.channelCount.val s.packetStartTimestamp (p.preambleOffsetOf datarate) 0 } := by
  have hsync := clkSync_peer (p := p) (s := contact now s) hrole (channelCount_val_ne_zero hcount) hperiod hrate
  simp only [rxValid, contact_cfg, contact_channelIndex, hrole, hindex, need_some, ok_bind, and_self, if_true, hsync, pure_eq_ok]
  rfl

theorem deliver_eq (f : ParsedFrame) (s : State) : deliver f s = { s with trace := s.trace ++ deliveries f } := by
  unfold deliver deliveries
  cases f.streamId with
  | none => simp
  | some id => cases f.data <;> simp [emit]

theorem onPollRx_complete_invalid {bytes : List Byte} (hpull : pullBytes bytes s = .ok (true, t))
    (hparse : frameParse p len t = .ok (f, u)) (hout : validOutcome f.outcome = false) :
    onPollRx p now (.packetComplete len bytes) s = .ok (some .rxMode, bufReset (txnClose (stPush f.outcome u))) := by
  rw [onPollRx, hpull]
  simp only [ok_bind, if_true, rxDone_invalid hparse hout, hout, Bool.false_eq_true, if_false, pure_eq_ok]

theorem onPollRx_complete_valid {bytes : List Byte} (hpull : pullBytes bytes s = .ok (true, t))
    (hparse : frameParse p len t = .ok (f, u)) (hout : validOutcome f.outcome = true)
    (hvalid : rxValid p now (stPush f.outcome u) = .ok v) :
    onPollRx p now (.packetComplete len bytes) s = .ok (some .rxComplete, deliver f (bufReset (txnClose v))) := by
  rw [onPollRx, hpull]
  simp only [ok_bind, if_true, rxDone_valid hparse hout hvalid, hout, pure_eq_ok]

end

/-- Settles O46: `onPollRx_complete_invalid` and `onPollRx_complete_valid`, the latter with or without a skew learned. -/
theorem receiveCompletes : Obligations.ReceiveCompletes := by
  intro now s u status len bytes statusRest rxRest used used' f hst hstatus hok hrx hfits received hparse
  have hmove := transition_interrupt_reception hst
  have hentry := entryAction_rxData (p := Config.params) (now := now) hstatus hok hrx
  have hpull : pullBytes bytes (rxPolled now statusRest rxRest used' s) = .ok (true, received) := pullBytes_fits hfits
  obtain ⟨samples, rfl⟩ : ∃ samples, u = { received with ppmRx := samples } := ⟨_, frameParse_frame hparse⟩
  refine ⟨?invalid, ?valid⟩
  case invalid =>
    intro hout
    have hinvalid : validOutcome f.outcome = false := by obtain h | h := hout <;> rw [h] <;> rfl
    exact exec_evStep_ok (e := .internalInterrupt) ((evStep_continues hmove
      (hentry.trans (onPollRx_complete_invalid hpull hparse hinvalid))).trans (evStep_enters_rxMode rfl))
  case valid =>
    intro role skew hout hrole hskew
    have hvalid : validOutcome f.outcome = true := by obtain h | h := hout <;> rw [h] <;> rfl
    have hcontact : rxValid Config.params now (stPush f.outcome { received with ppmRx := samples }) =
        .ok { contact now (stPush f.outcome { received with ppmRx := samples }) with clockSkewMs := skew } := by
      obtain ⟨hoff, rfl⟩ | ⟨rfl, hindex, hcount, period, datarate, hperiod, hrate, rfl⟩ := hskew
      · exact rxValid_contact hrole hoff
      · exact rxValid_synchronises hrole hindex hcount hperiod hrate
    have hcomplete := onPollRx_complete_valid hpull hparse hvalid hcontact
    rw [deliver_eq] at hcomplete
    exact exec_evStep_congr (e := .internalInterrupt) (e' := .rxComplete) (evStep_continues hmove (hentry.trans hcomplete))

/-! ### The start of a transmission (rule R223) -/

section
variable {f : BuiltFrame} {role : Role}

theorem enterTxStart_out_of_turn (hturn : slotTurn now s = .ok false) : enterTxStart p now s = .ok (some .rxMode, s) := by
  rw [enterTxStart, hturn]
  rfl

theorem enterTxStart_nothing (hturn : slotTurn now s = .ok true) (hbuild : frameBuild p s = .ok (f, u))
    (hrole : u.cfg.role = some .peer) (hdata : f.haveData = false) : enterTxStart p now s = .ok (some .rxMode, bufReset u) := by
  simp only [enterTxStart, hturn, hbuild, ok_bind, if_true, hrole, need_some, hdata, and_self, pure_eq_ok]

theorem enterTxStart_sends (hturn : slotTurn now s = .ok true) (hbuild : frameBuild p s = .ok (f, u))
    (hrole : u.cfg.role = some role) (hdata : f.haveData = true ∨ role = .coordinator) :
    enterTxStart p now s = .ok (none, callArmTransmitter f.destId (txnOpen now u)) := by
  have hsend : ¬ (f.haveData = false ∧ role = .peer) := by
    rintro ⟨hno, rfl⟩
    exact hdata.elim (fun h => Bool.noConfusion (hno.symm.trans h)) nofun
  simp only [enterTxStart, hturn, hbuild, ok_bind, if_true, hrole, need_some, if_neg hsend, pure_eq_ok]

end

/-- Settles O47: out of turn, nothing to send, and a frame to send. -/
theorem transmitStart : Obligations.TransmitStart := by
  intro event now s u oneWay role period f take rest used hevent hlink hrole hperiod turn
  obtain ⟨e, rfl, hmove⟩ : ∃ e, eventCode e = event ∧ transition s.fsmState e = some .txStart := by
    obtain ⟨rfl, hst⟩ | ⟨rfl, hst⟩ := hevent
    · exact ⟨.txStart, rfl, by rw [hst]; rfl⟩
    · exact ⟨.rxComplete, rfl, by rw [hst]; rfl⟩
  have hslot : slotTurn now { s with fsmState := .txStart } = .ok turn := slotTurn_eq hlink hrole hperiod
  have returns {v : State} (h : enterTxStart Config.params now { s with fsmState := .txStart } = .ok (some .rxMode, v))
      (hv : v.fsmState = .txStart) : exec (.evStep (eventCode e) now) s = .next { listening v with result := .none } :=
    exec_evStep_ok ((evStep_continues hmove h).trans (evStep_enters_rxMode (by rw [hv]; rfl)))
  refine ⟨?outOfTurn, ?inTurn⟩
  case outOfTurn =>
    intro hturn
    rw [hturn] at hslot
    exact returns (v := { s with fsmState := .txStart }) (enterTxStart_out_of_turn hslot) rfl
  case inTurn =>
    intro hturn hbuild
    rw [hturn] at hslot
    have hframe := frameBuild_frame hbuild
    have hcfg : u.cfg.role = some role := by rw [hframe]; exact hrole
    have htrace : u.trace = s.trace := by rw [hframe]
    refine ⟨?nothing, ?sends⟩
    case nothing =>
      rintro hdata rfl
      rw [← htrace]
      exact returns (v := bufReset u) (enterTxStart_nothing hslot hbuild hcfg hdata) (by rw [hframe]; rfl)
    case sends =>
      intro hdata htake sent
      have hrd : u.pktRd.toNat = 0 := by rw [hframe]; rfl
      have hanswers : u.answers = s.answers := by rw [hframe]
      have hfree : u.freeCount = s.freeCount := by rw [hframe]
      rw [← hanswers, ← hfree] at htake
      have harm := callArmTransmitter_eq (s := txnOpen now u) f.destId htake
      simp only [txnOpen_pktLen, txnOpen_pktRd, txnOpen_answers, txnOpen_trace, txnOpen_pktBuf, hrd, hanswers, htrace,
        Nat.sub_zero, Nat.zero_add] at harm
      have hsends := enterTxStart_sends hslot hbuild hcfg hdata
      rw [harm] at hsends
      exact exec_evStep_ok (evStep_rests hmove hsends)

/-! ### A transmission (rule R224) -/

/-- A transmission with the transport polled and both answers taken. -/
def txPolled (statusRest : List StatusAnswer) (txRest : List TxAnswer) (used : Nat) (s : State) : State := { s with
  fsmState := .txData, answers := { s.answers with status := statusRest, tx := txRest }, freeCount := used
  trace := s.trace ++ [.readStatusRegisters, .pollTx] }

theorem entryAction_txData {answer : TxAnswer} {txRest : List TxAnswer}
    (hstatus : AnswerTaken s.answers.status Config.freeStatus s.freeCount status statusRest used) (hok : status.ok = true)
    (htx : AnswerTaken s.answers.tx Config.freeTx used answer txRest used') :
    entryAction p now .txData { s with fsmState := .txData } = .ok (onPollTx answer (txPolled statusRest txRest used' s)) := by
  have hpoll := callPollTx_eq (s := statusRead statusRest used { s with fsmState := .txData }) htx
  rw [entryAction, enterTxData, callReadStatus_eq (s := { s with fsmState := .txData }) hstatus]
  simp only [hok, if_true]
  rw [txPolled, trace_append_two]
  exact congrArg (fun r => Except.ok (onPollTx r.1 r.2)) hpoll

/-- Settles O48: the three answers of `onPollTx`; a transmission sent and one failed both end in reception. -/
theorem transmitInterrupt : Obligations.TransmitInterrupt := by
  intro now s status answer statusRest txRest used used' hst hstatus hok htx polled
  have hmove := transition_interrupt_transmission hst
  have hentry := entryAction_txData (p := Config.params) (now := now) hstatus hok htx
  refine ⟨?more, ?ends⟩
  case more => rintro n rfl sent; exact exec_evStep_ok (e := .internalInterrupt) (evStep_rests hmove hentry)
  case ends =>
    rintro (rfl | rfl) <;>
      exact exec_evStep_ok (e := .internalInterrupt) ((evStep_continues hmove hentry).trans (evStep_enters_rxMode rfl))

end Sys2Proof.Machine
end

section
/-! SUPPORT. The driving loop step by step: the events or the supervisor, the hop, the transaction's timeout, the send turn
(43_link_sequencer.md section 2, rule R216). -/

namespace Sys2Proof.Machine

variable {p : Params} {s t u : State} {now : Tick} {e : Event} {P : State → Prop}

/-! ### The tick after its events -/

theorem loopTick_not_running (h : tickEvents p now s = .ok u) (hst : linkRunning u.fsmState = false) :
    loopTick p now s = .ok u := by
  rw [loopTick, h, ok_bind, hst]
  rfl

theorem loopTick_running (h : tickEvents p now s = .ok u) (hst : linkRunning u.fsmState = true) :
    loopTick p now s = (do
      let v ← tickHop p now u
      let w ← tickTxn p now v
      tickTurn p now w) := by
  rw [loopTick, h, ok_bind, if_pos hst]

theorem linkRunning_false {st : FsmState} (h : st = .uninitialized ∨ st = .fatalError) : linkRunning st = false := by
  obtain rfl | rfl := h <;> rfl

theorem runAt_loopTick (h : loopTick p now s = .ok t) : runAt p (.loopTick now) s = .ok { t with result := .none } :=
  bind_eq_ok.2 ⟨t, h, rfl⟩

/-- What steps 3 to 5 keep holds after the tick when it holds after its events. -/
theorem loopTick_keeps_after_events (k : Kept p P)
    (hop : ∀ s t c changed, hopEval p now s = .ok (c, changed, t) → P s → P t) (h : loopTick p now s = .ok t)
    (hevents : ∀ u, tickEvents p now s = .ok u → P u) : P t := by
  obtain ⟨u, hu, ht⟩ := loopTick_cases h
  obtain rfl | ⟨v, w, hv, hw, ht⟩ := ht
  · exact hevents _ hu
  · exact tickTurn_keeps k ht (tickTxn_keeps k hw (tickHop_keeps k hop hv (hevents u hu)))

/-! ### Step 1: the drain -/

/-- What step 1 leaves: no event, no signal, and the time of the last event. -/
structure Drained (time : Tick) (s : State) : Prop where
  eventQueue : s.eventQueue = []
  wakeCount : s.wakeCount = 0
  lastEventTimestamp : s.lastEventTimestamp = time

theorem drained_kept (time : Tick) : Kept p (Drained time) where
  touch _ _ h hs := by rw [touch_frame h]; exact ⟨hs.eventQueue, hs.wakeCount, hs.lastEventTimestamp⟩
  fault _ f hs := by cases f <;> exact ⟨hs.eventQueue, hs.wakeCount, hs.lastEventTimestamp⟩
  move _ _ hs := ⟨hs.eventQueue, hs.wakeCount, hs.lastEventTimestamp⟩

theorem drained_hop {time : Tick} {c : BitVec 8} {changed : Bool} (h : hopEval p now s = .ok (c, changed, t))
    (hs : Drained time s) : Drained time t := by
  rw [hopEval_frame h]
  exact ⟨hs.eventQueue, hs.wakeCount, hs.lastEventTimestamp⟩

/-- Every event drained refreshes the supervisor's time. -/
theorem drain_lastEventTimestamp {es : List Event} (h : drain p now es s = .ok t) :
    t.lastEventTimestamp = if es = [] then s.lastEventTimestamp else now := by
  induction es generalizing s with
  | nil => cases h; rfl
  | cons e es ih =>
    rw [drain_cons] at h
    obtain ⟨u, hu, h⟩ := bind_eq_ok.1 h
    have htime : u.lastEventTimestamp = now := by
      split at hu
      · cases hu; rfl
      · obtain ⟨-, -, htime, -⟩ := evStep_frame hu
        exact htime
    rw [ih h, htime, ite_self, if_neg (List.cons_ne_nil e es)]

theorem drain_drained {es : List Event} (h : drain p now es s = .ok t) (hqueue : s.eventQueue = es) (hwake : s.wakeCount = 0) :
    Drained (if es = [] then s.lastEventTimestamp else now) t := by
  obtain ⟨hempty, hsignal⟩ := drain_events h hqueue
  exact ⟨hempty, hsignal.trans hwake, drain_lastEventTimestamp h⟩

theorem loopTick_drained (hwake : 0 < s.wakeCount) (h : loopTick p now s = .ok t) :
    Drained (if s.eventQueue = [] then s.lastEventTimestamp else now) t := by
  refine loopTick_keeps_after_events (drained_kept _) (fun _ _ _ _ => drained_hop) h fun u hu => ?_
  rw [tickEvents_signal hwake] at hu
  exact drain_drained (s := { s with wakeCount := 0 }) hu rfl rfl

theorem discarded_iff {st : FsmState} :
    discarded e st = true ↔ e = .internalInterrupt ∧ (st = .uninitialized ∨ st = .initializing) := by
  rw [discarded, decide_eq_true_eq]

/-- Interrupts before the link has started are all discarded (rules R216, R265). -/
theorem drain_interrupts {es : List Event} (time : Tick) (hst : s.fsmState = .uninitialized)
    (hes : ∀ e ∈ es, e = .internalInterrupt) : drain p now es { s with eventQueue := es, lastEventTimestamp := time } = .ok { s with
      eventQueue := [], lastEventTimestamp := if es = [] then time else now } := by
  induction es generalizing time with
  | nil => rfl
  | cons e es ih =>
    have hdiscard : discarded e s.fsmState = true := discarded_iff.2 ⟨hes e List.mem_cons_self, .inl hst⟩
    rw [drain_cons, if_pos hdiscard, ok_bind, ih now fun e he => hes e (List.mem_cons_of_mem _ he), ite_self,
      if_neg (List.cons_ne_nil e es)]

/-- The state in which the oldest event of the queue is processed. -/
def takenEvent (now : Tick) (es : List Event) (s : State) : State :=
  { s with eventQueue := es, wakeCount := 0, lastEventTimestamp := now }

section
variable {es : List Event} (hwake : 0 < s.wakeCount) (hqueue : s.eventQueue = e :: es)
include hwake hqueue

theorem tickEvents_discards (h : discarded e s.fsmState = true) : tickEvents p now s = drain p now es (takenEvent now es s) := by
  rw [tickEvents_signal hwake, hqueue, drain_cons, if_pos h]
  rfl

theorem tickEvents_processes (h : ¬ discarded e s.fsmState = true) :
    tickEvents p now s = (evStep p e now (takenEvent now es s) >>= fun u => drain p now es u) := by
  rw [tickEvents_signal hwake, hqueue, drain_cons, if_neg h]
  rfl

end

/-- A signal makes the tick drain what an event has left in the queue. -/
theorem tickEvents_resumes {es : List Event} (hqueue : u.eventQueue = es) (hwake : u.wakeCount = 0) :
    tickEvents p now { u with wakeCount := 1 } = drain p now es u := by
  rw [tickEvents_signal Nat.one_pos, ← hqueue, ← hwake]

theorem exec_loopTick_congr (h : tickEvents Config.params now s = tickEvents Config.params now t) :
    exec (.loopTick now) s = exec (.loopTick now) t := by
  rw [exec_loopTick, exec_loopTick, loopTick_congr h]

theorem exec_loopTick_ok (h : loopTick Config.params now s = .ok t) : exec (.loopTick now) s = .next { t with result := .none } :=
  exec_eq_next.2 (runAt_loopTick h)

/-- Settles O49: what the drain does with the oldest event, and what it leaves (`loopTick_drained`). -/
theorem loopTickDrainsQueue : Obligations.LoopTickDrainsQueue := by
  intro now s hwake
  refine ⟨?drained, fun e es hqueue => ⟨?early, ?processed, ?refused⟩, ?interrupts, ?halts⟩
  case drained =>
    intro t h
    obtain ⟨u, hu, h⟩ := bind_eq_ok.1 (exec_eq_next.1 h)
    cases h
    obtain ⟨hempty, hsignal, htime⟩ := loopTick_drained hwake hu
    exact ⟨hempty, hsignal, htime⟩
  case early =>
    intro hearly
    apply exec_loopTick_congr
    rw [tickEvents_discards hwake hqueue (discarded_iff.2 hearly)]
    exact (tickEvents_resumes (u := takenEvent now es s) rfl rfl).symm
  case processed =>
    intro t hearly hevent
    obtain ⟨u, hu, rfl⟩ := exec_evStep_eq_next.1 hevent
    obtain ⟨hrest, hsignal, -, -, -, -, -, -, -, hresult⟩ := evStep_frame hu
    apply exec_loopTick_congr
    rw [tickEvents_processes hwake hqueue (mt discarded_iff.1 hearly), takenEvent, hu, ok_bind,
      ← tickEvents_resumes hrest hsignal, ← hresult]
  case refused =>
    intro f hearly hevent
    have hrefused := exec_evStep_eq_fault.1 hevent
    rw [exec_loopTick, loopTick, tickEvents_processes hwake hqueue (mt discarded_iff.1 hearly), takenEvent, hrefused]
    rfl
  case interrupts =>
    intro hst hall
    refine exec_loopTick_ok (loopTick_not_running (u := { s with
      eventQueue := [], wakeCount := 0
      lastEventTimestamp := if s.eventQueue = [] then s.lastEventTimestamp else now }) ?_ (linkRunning_false (.inl hst)))
    rw [tickEvents_signal hwake]
    exact drain_interrupts (s := { s with wakeCount := 0 }) s.lastEventTimestamp hst hall
  case halts =>
    intro hst hqueue t hevent hfatal
    obtain ⟨u, hu, rfl⟩ := (exec_evStep_eq_next (e := .initializeLink)).1 hevent
    refine exec_loopTick_ok (loopTick_not_running ?_ (linkRunning_false (.inr hfatal)))
    rw [tickEvents_processes hwake hqueue nofun, takenEvent, hu]
    rfl

/-! ### Step 2: the supervisor -/

theorem answerTaken_exists {α : Type} (supplied : List α) (free : Nat → α) (used : Nat) :
    ∃ a rest used', AnswerTaken supplied free used a rest used' := by
  cases supplied with
  | nil => exact ⟨_, _, _, .inr ⟨rfl, rfl, rfl, rfl⟩⟩
  | cons a rest => exact ⟨a, rest, used, .inl ⟨rfl, rfl⟩⟩

/-- An initialisation that answers has failed or succeeded (rule R220). -/
theorem evStep_initialize_cases (hmove : transition s.fsmState .initializeLink = some .initializing)
    (h : evStep p .initializeLink now s = .ok t) : ∃ rest used,
      t = { identified rest used s with fsmState := .fatalError, fatal := true } ∨
      ∃ deviceId peerId datarate, t = listening (emit (.configure deviceId peerId datarate) (identified rest used s)) := by
  obtain ⟨idOk, rest, used, hanswer⟩ := answerTaken_exists s.answers.idOk Config.freeIdOk s.freeCount
  refine ⟨rest, used, ?_⟩
  cases idOk with
  | false => rw [evStep_initialize_fails hmove hanswer] at h; cases h; exact .inl rfl
  | true =>
    by_cases hunset : s.cfg.deviceId = none ∨ s.cfg.peerId = none ∨ s.cfg.datarate = none
    · rw [evStep_initialize_unset hmove hanswer hunset] at h; cases h
    · simp only [not_or, ← ne_eq, Option.ne_none_iff_exists'] at hunset
      obtain ⟨⟨deviceId, hdevice⟩, ⟨peerId, hpeer⟩, datarate, hrate⟩ := hunset
      rw [evStep_initialize_succeeds hmove hanswer hdevice hpeer hrate] at h
      cases h
      exact .inr ⟨deviceId, peerId, datarate, rfl⟩

/-- Nothing is counted, no event posted or taken, and the trace only grows. -/
structure KeepsCounts (s t : State) : Prop where
  resets : t.resets = s.resets
  history : t.history = s.history
  eventQueue : t.eventQueue = s.eventQueue
  lastEventTimestamp : t.lastEventTimestamp = s.lastEventTimestamp
  trace : ∃ more, t.trace = s.trace ++ more

theorem KeepsCounts.refl (s : State) : KeepsCounts s s := ⟨rfl, rfl, rfl, rfl, [], (List.append_nil _).symm⟩

theorem KeepsCounts.trans (h : KeepsCounts s t) (h' : KeepsCounts t u) : KeepsCounts s u where
  resets := h'.resets.trans h.resets
  history := h'.history.trans h.history
  eventQueue := h'.eventQueue.trans h.eventQueue
  lastEventTimestamp := h'.lastEventTimestamp.trans h.lastEventTimestamp
  trace := by
    obtain ⟨more, hmore⟩ := h.trace
    obtain ⟨more', hmore'⟩ := h'.trace
    exact ⟨more ++ more', by rw [hmore', hmore, List.append_assoc]⟩

theorem listening_keepsCounts (s : State) : KeepsCounts s (listening s) := ⟨rfl, rfl, rfl, rfl, _, rfl⟩

theorem emit_keepsCounts (o : Output) (s : State) : KeepsCounts s (emit o s) := ⟨rfl, rfl, rfl, rfl, _, rfl⟩

theorem bufReset_keepsCounts (s : State) : KeepsCounts s (bufReset s) := ⟨rfl, rfl, rfl, rfl, (KeepsCounts.refl s).trace⟩

theorem txnOpen_keepsCounts (now : Tick) (s : State) : KeepsCounts s (txnOpen now s) :=
  ⟨rfl, rfl, rfl, rfl, (KeepsCounts.refl s).trace⟩

theorem move_keepsCounts (st : FsmState) (s : State) : KeepsCounts s { s with fsmState := st } :=
  ⟨rfl, rfl, rfl, rfl, (KeepsCounts.refl s).trace⟩

theorem frameBuild_keepsCounts {f : BuiltFrame} (h : frameBuild p s = .ok (f, t)) : KeepsCounts s t := by
  rw [frameBuild_frame h]
  exact ⟨rfl, rfl, rfl, rfl, (KeepsCounts.refl s).trace⟩

theorem callArmTransmitter_keepsCounts (dest : Word32) (s : State) : KeepsCounts s (callArmTransmitter dest s) := by
  obtain ⟨take, rest, used, htake⟩ := answerTaken_exists s.answers.take Config.freeTake s.freeCount
  rw [callArmTransmitter_eq dest htake]
  exact ⟨rfl, rfl, rfl, rfl, _, rfl⟩

/-- A transmission start counts nothing, and can return `RxMode` only. -/
theorem enterTxStart_keepsCounts {next : Option Event} (h : enterTxStart p now s = .ok (next, t)) :
    KeepsCounts s t ∧ (next = none ∨ next = some .rxMode) := by
  obtain ⟨turn, -, h⟩ := bind_eq_ok.1 h
  split at h
  · obtain ⟨⟨f, u⟩, hu, h⟩ := bind_eq_ok.1 h
    obtain ⟨role, -, h⟩ := bind_eq_ok.1 h
    have hbuilt : KeepsCounts s u := frameBuild_keepsCounts hu
    split at h
    · cases h
      exact ⟨hbuilt.trans (bufReset_keepsCounts u), .inr rfl⟩
    · cases h
      exact ⟨(hbuilt.trans (txnOpen_keepsCounts now u)).trans (callArmTransmitter_keepsCounts _ _), .inl rfl⟩
  · cases h
    exact ⟨KeepsCounts.refl s, .inr rfl⟩

theorem evStep_txStart_keepsCounts (hst : s.fsmState = .rxMode) (h : evStep p .txStart now s = .ok t) : KeepsCounts s t := by
  have hmove : transition s.fsmState .txStart = some .txStart := by rw [hst]; rfl
  obtain ⟨next, u, hu, -⟩ := (cascade_succ_eq_ok hmove).1 h
  obtain ⟨hentered, hnext⟩ := enterTxStart_keepsCounts hu
  have hkept : KeepsCounts s u := (move_keepsCounts .txStart s).trans hentered
  obtain rfl | rfl := hnext
  · rw [evStep_rests hmove hu] at h
    cases h
    exact hkept
  · have hback : transition u.fsmState .rxMode = some .rxMode := by rw [entryAction_fsmState hu]; rfl
    rw [evStep_continues hmove hu, evStep_enters_rxMode hback] at h
    cases h
    exact hkept.trans (listening_keepsCounts u)

theorem tickTxn_closed (h : s.txnOpen = false) : tickTxn p now s = .ok s := by
  rw [tickTxn, toTxn_closed h]
  rfl

/-- The hop leaves a node that listens listening. -/
theorem tickHop_listening (hst : s.fsmState = .rxMode) (hclosed : s.txnOpen = false) (h : tickHop p now s = .ok t) :
    KeepsCounts s t ∧ t.fsmState = .rxMode ∧ t.txnOpen = false := by
  obtain ⟨⟨c, changed, u⟩, hu, h⟩ := bind_eq_ok.1 h
  obtain ⟨index, conn, rfl, -⟩ := hopEval_cases hu
  have hhop : KeepsCounts s { s with connState := conn, channelIndex := index } := ⟨rfl, rfl, rfl, rfl, (KeepsCounts.refl s).trace⟩
  cases changed with
  | false => cases h; exact ⟨hhop, hst, hclosed⟩
  | true =>
    have hmove : evStep p .rxMode now (emit (.setChannel c) { s with connState := conn, channelIndex := index }) = .ok t := h
    rw [evStep_rxMode (by rw [emit_fsmState, hst]; rfl)] at hmove
    cases hmove
    exact ⟨(hhop.trans (emit_keepsCounts _ _)).trans (listening_keepsCounts _), rfl, rfl⟩

theorem tickTurn_keepsCounts (hst : s.fsmState = .rxMode) (h : tickTurn p now s = .ok t) : KeepsCounts s t := by
  rw [tickTurn, if_pos hst] at h
  obtain ⟨turn, -, h⟩ := bind_eq_ok.1 h
  cases turn with
  | false => cases h; exact KeepsCounts.refl s
  | true => exact evStep_txStart_keepsCounts hst h

/-- With no signal a supervisor expiry flushes the queue and is event `Error` (rule R216 step 2). -/
theorem tickEvents_supervisor (hwake : s.wakeCount = 0) (hexpired : toSup p now s = true) :
    tickEvents p now s = evStep p .error now { s with eventQueue := [], lastEventTimestamp := now } := by
  rw [tickEvents, if_neg (by omega), if_pos hexpired]

/-- What an `Error` with the initialisation that follows leaves of the counts, the events and the trace. -/
structure Restarted (s t : State) : Prop where
  resets : t.resets = s.resets + 1
  history : t.history = historyReset
  eventQueue : t.eventQueue = s.eventQueue
  lastEventTimestamp : t.lastEventTimestamp = s.lastEventTimestamp
  trace : ∃ rest, t.trace = s.trace ++ .resetAndIdentify :: rest

theorem Restarted.keeps (h : Restarted s t) (h' : KeepsCounts t u) : Restarted s u where
  resets := h'.resets.trans h.resets
  history := h'.history.trans h.history
  eventQueue := h'.eventQueue.trans h.eventQueue
  lastEventTimestamp := h'.lastEventTimestamp.trans h.lastEventTimestamp
  trace := by
    obtain ⟨rest, hrest⟩ := h.trace
    obtain ⟨more, hmore⟩ := h'.trace
    exact ⟨rest ++ more, by rw [hmore, hrest, List.append_assoc, List.cons_append]⟩

/-- After an `Error` a running node is halted or listens. -/
theorem evStep_error_restarts (hst : linkRunning s.fsmState = true) (h : evStep p .error now s = .ok t) :
    Restarted s t ∧ (t.fsmState = .fatalError ∨ t.fsmState = .rxMode ∧ t.txnOpen = false) := by
  obtain ⟨-, -, hmove⟩ := transition_of_running hst
  rw [evStep_error hmove] at h
  obtain ⟨rest, used, rfl | ⟨deviceId, peerId, datarate, rfl⟩⟩ := evStep_initialize_cases rfl h
  · exact ⟨⟨rfl, rfl, rfl, rfl, _, rfl⟩, .inl rfl⟩
  · have hidentified : Restarted s (identified rest used { s with
        fsmState := .error, pktLen := 0, pktRd := 0, txnOpen := false, resets := s.resets + 1 }) := ⟨rfl, rfl, rfl, rfl, _, rfl⟩
    exact ⟨(hidentified.keeps (emit_keepsCounts _ _)).keeps (listening_keepsCounts _), .inr ⟨rfl, rfl⟩⟩

theorem loopTick_supervisor_restarts (hwake : s.wakeCount = 0) (hexpired : toSup p now s = true)
    (hst : linkRunning s.fsmState = true) (h : loopTick p now s = .ok t) :
    Restarted { s with eventQueue := [], lastEventTimestamp := now } t := by
  obtain ⟨u, hu, -⟩ := loopTick_cases h
  have hevent := hu
  rw [tickEvents_supervisor hwake hexpired] at hevent
  obtain ⟨hrestarted, hfatal | ⟨hlistens, hclosed⟩⟩ :=
    evStep_error_restarts (s := { s with eventQueue := [], lastEventTimestamp := now }) hst hevent
  · rw [loopTick_not_running hu (linkRunning_false (.inr hfatal))] at h
    cases h
    exact hrestarted
  · rw [loopTick_running hu (by rw [hlistens]; rfl)] at h
    obtain ⟨v, hv, h⟩ := bind_eq_ok.1 h
    obtain ⟨hkept, hlistens, hclosed⟩ := tickHop_listening hlistens hclosed hv
    rw [tickTxn_closed hclosed, ok_bind] at h
    exact (hrestarted.keeps hkept).keeps (tickTurn_keepsCounts hlistens h)

/-- Settles O50: `Error` is dropped on a node that is not running, and restarts a running one. -/
theorem loopTickSupervisor : Obligations.LoopTickSupervisor := by
  intro p now s hwake htime
  have hexpired : toSup p now s = true := by rw [toSup, supervisorTimedOut_eq]; exact decide_eq_true htime
  refine ⟨?idle, ?running⟩
  case idle =>
    intro hst
    have hdropped : transition s.fsmState .error = none := by obtain h | h := hst <;> rw [h] <;> rfl
    have hevents : tickEvents p now s = .ok { s with eventQueue := [], lastEventTimestamp := now } := by
      rw [tickEvents_supervisor hwake hexpired]
      exact evStep_dropped hdropped
    exact runAt_loopTick (loopTick_not_running hevents (linkRunning_false hst))
  case running =>
    intro t hst h
    obtain ⟨u, hu, h⟩ := bind_eq_ok.1 h
    cases h
    obtain ⟨hresets, hhistory, hqueue, hlast, htrace⟩ := loopTick_supervisor_restarts hwake hexpired (linkRunning_of_mem hst) hu
    exact ⟨hresets, hqueue, hlast, hhistory, htrace⟩

/-! ### Steps 3 to 5 on a running node -/

/-- The hop over plain numbers: the slot's index, the drop-back test, and the index the two give (rule R160). -/
theorem hopEval_of_index {role : Role} {period : Period} {idx : Nat} {drop : Bool} {index : Fin 32} (hcount : s.channelCount ≠ 0)
    (hrole : s.cfg.role = some role) (hperiod : s.cfg.packetPeriodMs = some period)
    (hidx : idx = if role = .peer ∧ s.connState = .disconnected then 0
      else (logicalTime role s.clockSkewMs now).toNat / period.ms.toNat % s.channelCount.val)
    (hdrop : drop = decide (idx ≠ s.channelIndex.val ∧ role = .peer ∧ s.connState = .connected ∧
      p.connectTimeoutMs ≤ (now.toNat + 4294967296 - s.lastContactTimestamp.toNat) % 4294967296))
    (hindex : index.val = if drop then 0 else idx) :
    hopEval p now s = .ok (tableEntry s index.val, index != s.channelIndex, { s with
      connState := if drop then .disconnected else s.connState, channelIndex := index }) := by
  obtain ⟨target, htarget, hval⟩ := hopTarget_eq now role (channelCount_val_ne_zero hcount) hperiod
  rw [← hidx] at hval
  have hdrops : hopDrops p role now s target = drop := by rw [hopDrops_eq, hval, hdrop]
  have hreached : (if hopDrops p role now s target then 0 else target) = index :=
    Fin.ext (by rw [hdrops, hopIndex_val, hval, hindex])
  rw [hopEval_eq hrole htarget hreached, hdrops]

theorem tickHop_eq {c : BitVec 8} {index : Fin 32} (hhop : hopEval p now s = .ok (c, index != s.channelIndex, t))
    (hst : linkRunning t.fsmState = true) :
    tickHop p now s = .ok (if index = s.channelIndex then t else listening (emit (.setChannel c) t)) := by
  rw [tickHop, hhop, ok_bind]
  by_cases hsame : index = s.channelIndex
  · simp [hsame]
  · simp only [bne_iff_ne, ne_eq, hsame, not_false_eq_true, if_true, if_false]
    exact evStep_rxMode hst

theorem tickTxn_eq {period : Period} {start : Tick} (hperiod : s.cfg.packetPeriodMs = some period)
    (hstart : s.packetStartTimestamp = start) (hst : linkRunning s.fsmState = true) :
    tickTxn p now s = .ok (if s.txnOpen = true ∧
        3 * period.ms.toNat < (now.toNat + 4294967296 - start.toNat) % 4294967296 then
      listening { s with timeouts := s.timeouts + 1 } else s) := by
  subst hstart
  cases hopen : s.txnOpen with
  | false => rw [tickTxn_closed hopen, if_neg (fun h => Bool.false_ne_true h.1)]
  | true =>
    rw [tickTxn, toTxn_open hopen hperiod, ok_bind, txnTimedOut_eq]
    by_cases hlate : 3 * period.ms.toNat < (now.toNat + 4294967296 - s.packetStartTimestamp.toNat) % 4294967296
    · simp only [hlate, decide_true, and_self, if_true]
      exact evStep_timeout hst
    · simp [hlate]

theorem tickTurn_waits {turn : Bool} (hslot : slotTurn now s = .ok turn) (h : ¬ (s.fsmState = .rxMode ∧ turn = true)) :
    tickTurn p now s = .ok s := by
  rw [tickTurn]
  split
  · rename_i hst
    rw [hslot, ok_bind, if_neg fun hturn => h ⟨hst, hturn⟩]
    rfl
  · rfl

theorem tickTurn_sends (hst : s.fsmState = .rxMode) (hslot : slotTurn now s = .ok true) :
    tickTurn p now s = evStep p .txStart now s := by
  rw [tickTurn, if_pos hst, hslot]
  rfl

/-- With no event queued and no expiry a tick's steps 1 and 2 take back a stray signal at most. -/
theorem tickEvents_nothing (h : s.wakeCount = 0 ∧
      (now.toNat + 4294967296 - s.lastEventTimestamp.toNat) % 4294967296 ≤ p.supervisorTimeoutMs ∨
    s.eventQueue = [] ∧ 0 < s.wakeCount) : tickEvents p now s = .ok { s with wakeCount := 0 } := by
  obtain ⟨hwake, htime⟩ | ⟨hqueue, hwake⟩ := h
  · have halive : toSup p now s = false := by
      rw [toSup, supervisorTimedOut_eq]
      exact decide_eq_false (Nat.not_lt.2 htime)
    rw [tickEvents_idle hwake halive, ← hwake]
  · rw [tickEvents_signal hwake, hqueue]
    rfl

theorem exec_loopTick_turn (h : loopTick Config.params now s = evStep Config.params .txStart now t) :
    exec (.loopTick now) s = exec (.evStep 4 now) t := by
  have hevent := exec_evStep .txStart now t
  rw [← h] at hevent
  exact hevent.symm

/-- Settles O51: `tickHop_eq` is the state `hopped`, `tickTxn_eq` the state `timed`, and the send turn decides how the tick ends. -/
theorem loopTickRunningNode : Obligations.LoopTickRunningNode := by
  intro now s hnothing
  have hevents := tickEvents_nothing (p := Config.params) hnothing
  refine ⟨fun hst => exec_loopTick_ok (loopTick_not_running hevents (linkRunning_false hst)), ?_⟩
  intro role period oneWay index hmem hcount hrole hperiod hlink t idx drop hindex idle hopped overdue timed turn
  have hst : linkRunning s.fsmState = true := linkRunning_of_mem hmem
  have hhop : tickHop Config.params now { s with wakeCount := 0 } = .ok hopped := by
    have heval : hopEval Config.params now { s with wakeCount := 0 } =
        .ok (tableEntry s index.val, index != s.channelIndex, idle) :=
      hopEval_of_index (s := { s with wakeCount := 0 }) hcount hrole hperiod rfl rfl hindex
    rw [tickHop_eq heval hst]
    simp only [hopped, trace_append_two]
    rfl
  obtain ⟨hcfg, hskew, hstart, hcounted, hrunning⟩ : hopped.cfg = s.cfg ∧ hopped.clockSkewMs = s.clockSkewMs ∧
      hopped.packetStartTimestamp = s.packetStartTimestamp ∧ hopped.timeouts = s.timeouts ∧
      linkRunning hopped.fsmState = true := by
    simp only [hopped]
    split
    · exact ⟨rfl, rfl, rfl, rfl, hst⟩
    · exact ⟨rfl, rfl, rfl, rfl, rfl⟩
  have htxn : tickTxn Config.params now hopped = .ok timed := by
    rw [tickTxn_eq (hcfg ▸ hperiod) hstart hrunning, hcounted]
    rfl
  obtain ⟨hcfg', hskew'⟩ : timed.cfg = s.cfg ∧ timed.clockSkewMs = s.clockSkewMs := by
    simp only [timed]
    split <;> exact ⟨hcfg, hskew⟩
  have hslot : slotTurn now timed = .ok (slotTest oneWay role period t) := by
    rw [slotTurn_eq (hcfg' ▸ hlink) (hcfg' ▸ hrole) (hcfg' ▸ hperiod), hskew']
  have htick : loopTick Config.params now s = tickTurn Config.params now timed := by
    rw [loopTick_running hevents hst, hhop, ok_bind, htxn, ok_bind]
  refine ⟨?waits, ?sends⟩
  case waits => exact fun hturn => exec_loopTick_ok (htick.trans (tickTurn_waits hslot hturn))
  case sends =>
    rintro ⟨hlistens, hturn⟩
    rw [hturn] at hslot
    exact exec_loopTick_turn (htick.trans (tickTurn_sends hlistens hslot))

end Sys2Proof.Machine
end

section
/-! SUPPORT. Configuration writes and the caller operations (44_config_and_host.md, rules R240, R241, R243 to R245). -/

namespace Sys2Proof.Machine

variable {p : Params} {c : ConfigRegs} {s : State} {v : BitVec 32} {field : Nat}

/-! ### Legal values (rule R28) -/

theorem oneBit_isSome (v : BitVec 32) : (oneBit v).isSome = decide (v.toNat ≤ 1) := by
  unfold oneBit
  split
  case isTrue hzero => rw [hzero]; rfl
  case isFalse hzero =>
    split
    case isTrue hone => rw [hone]; rfl
    case isFalse hone => exact (decide_eq_false (by bv_omega)).symm

theorem oneBit_eq_some {b : Bool} (h : oneBit v = some b) : v = if b then 1 else 0 := by
  unfold oneBit at h
  split at h
  case isTrue hzero => cases h; exact hzero
  case isFalse =>
    split at h
    case isTrue hone => cases h; exact hone
    case isFalse => cases h

theorem flag_of_oneBit {b : Bool} (h : oneBit v = some b) : b = decide (v = 1) := by
  rw [oneBit_eq_some h]
  cases b <;> rfl

theorem roleOfValue_eq_some {role : Role} (h : roleOfValue v = some role) :
    role = if v = 0 then .peer else .coordinator := by
  obtain ⟨b, hb, rfl⟩ := Option.map_eq_some_iff.1 h
  rw [oneBit_eq_some hb]
  cases b <;> rfl

theorem channelOfValue_isSome (v : BitVec 32) : (channelOfValue v).isSome = decide (v.toNat ≤ 250) := by
  unfold channelOfValue
  split <;> simp_all [chMax]

theorem channelOfValue_eq_some {n : BitVec 8} (h : channelOfValue v = some n) : n = BitVec.ofNat 8 v.toNat := by
  unfold channelOfValue at h
  split at h
  · cases h; rfl
  · cases h

theorem periodOfValue_isSome (v : BitVec 32) :
    (periodOfValue v).isSome = (decide (1 ≤ v.toNat) && decide (v.toNat ≤ 65535)) := by
  rw [← Bool.decide_and]
  unfold periodOfValue
  split
  case isTrue hlt =>
    split
    case isTrue hne => exact (decide_eq_true (by bv_omega)).symm
    case isFalse hzero => exact (decide_eq_false (by bv_omega)).symm
  case isFalse hge => exact (decide_eq_false (by omega)).symm

theorem periodOfValue_eq_some {period : Period} (h : periodOfValue v = some period) : period.ms.toNat = v.toNat := by
  unfold periodOfValue at h
  split at h
  · split at h
    · cases h
      rw [BitVec.toNat_setWidth]; omega
    · cases h
  · cases h

theorem datarateOfValue_isSome (p : Params) (v : BitVec 32) : (datarateOfValue p v).isSome = decide (v ∈ p.datarates) := by
  unfold datarateOfValue
  split <;> simp [*]

theorem datarateOfValue_eq_some {d : Word32} (h : datarateOfValue p v = some d) : d = v := by
  unfold datarateOfValue at h
  split at h
  · cases h; rfl
  · cases h

/-- A configuration write is taken exactly when its field and value are legal (rule R241). -/
theorem writeCfg_isSome (p : Params) (c : ConfigRegs) (field : Nat) (v : BitVec 32) :
    (writeCfg p c field v).isSome = legalCfgValue p field v := by
  match field with
  | 0 => exact Option.isSome_map.trans (Option.isSome_map.trans (oneBit_isSome v))
  | 1 | 2 => rfl
  | 3 => exact Option.isSome_map.trans (datarateOfValue_isSome p v)
  | 4 | 5 => exact Option.isSome_map.trans (channelOfValue_isSome v)
  | 6 => exact Option.isSome_map.trans (periodOfValue_isSome v)
  | 7 | 8 | 9 | 10 => exact Option.isSome_map.trans (oneBit_isSome v)
  | _ + 11 => rfl

theorem writeCfg_of_illegal (h : legalCfgValue p field v = false) : writeCfg p c field v = none := by
  rw [← Option.not_isSome_iff_eq_none, writeCfg_isSome, h]
  exact Bool.false_ne_true

theorem writeCfg_of_legal (h : legalCfgValue p field v = true) : ∃ c', writeCfg p c field v = some c' :=
  Option.isSome_iff_exists.1 ((writeCfg_isSome p c field v).trans h)

/-! ### Resetting and configuring (rules R240, R241) -/

/-- Settles O33: `initBlock` is the reset of rule R240, and `historyReset` its 64 codes. -/
theorem initResets : Obligations.InitResets := fun _ => rfl

theorem runAt_cfgSet (h : writeCfg p s.cfg field v = some c) :
    runAt p (.cfgSet field v) s = .ok ((postReinit p (configured p field c s)).withResult .none) := by
  rw [runAt, runCfgSet, h]
  rfl

theorem runAt_cfgSet_refused (h : writeCfg p s.cfg field v = none) : runAt p (.cfgSet field v) s = .error .badOperand := by
  rw [runAt, runCfgSet, h]

/-- No re-`Initialize` reaches the queue of a node that was not started, or a full queue. -/
theorem postReinit_silent (h : s.fsmState = .uninitialized ∨ p.eventQueueCap ≤ s.eventQueue.length) : postReinit p s = s := by
  unfold postReinit
  split
  case isTrue => rfl
  case isFalse hstarted => rw [evPost_full (h.resolve_left hstarted)]

theorem postReinit_posts (hstarted : s.fsmState ≠ .uninitialized) (hroom : s.eventQueue.length < p.eventQueueCap) :
    postReinit p s = { s with eventQueue := s.eventQueue ++ [.initializeLink], wakeCount := s.wakeCount + 1 } := by
  rw [postReinit, if_neg hstarted, evPost_free hroom]

theorem regenerate_channelIndex (p : Params) (s : State) : (regenerate p s).channelIndex = 0 := by
  unfold regenerate
  split <;> rfl

/-- Fields 0 to 5 leave the index at 0 and the table the registers give (rules R74, R241). -/
theorem configured_regenerates (c : ConfigRegs) (s : State) (h : field ≤ 5) :
    (configured p field c s).channelIndex = 0 ∧ TableMatches p (configured p field c s) := by
  rw [configured, if_pos h]
  exact ⟨regenerate_channelIndex p _, (regenerate_tableCoherent p _).matching⟩

theorem configured_of_gt (c : ConfigRegs) (s : State) (h : 5 < field) : configured p field c s = { s with cfg := c } :=
  if_neg (Nat.not_le.2 h)

/-- `CFG.SET` writes the registers, the channel table with its index, and the event queue with its signal only. -/
theorem reconfigured_frame (p : Params) (field : Nat) (c : ConfigRegs) (s : State) :
    postReinit p (configured p field c s) = { s with
    cfg := c, channelTable := (configured p field c s).channelTable, channelCount := (configured p field c s).channelCount
    channelIndex := (configured p field c s).channelIndex
    eventQueue := (postReinit p (configured p field c s)).eventQueue
    wakeCount := (postReinit p (configured p field c s)).wakeCount } := by
  rw [postReinit_frame, configured_frame]

/-- Settles O34: the registers are `writeCfg`'s, the table `configured`'s, the queue `postReinit`'s; each leaves the rest alone. -/
theorem cfgSetWritesField : Obligations.CfgSetWritesField := by
  intro field value s
  refine ⟨fun hillegal => ?refused, fun hlegal => ?written⟩
  case refused =>
    exact exec_eq_fault.2 (runAt_cfgSet_refused (writeCfg_of_illegal hillegal))
  case written =>
    obtain ⟨c, hc⟩ := writeCfg_of_legal (c := s.cfg) hlegal
    have hframe := reconfigured_frame Config.params field c s
    have hconf := configured_frame (p := Config.params) field c s
    have hcfg : ((postReinit Config.params (configured Config.params field c s)).withResult .none).cfg = c := by
      rw [hframe]; rfl
    refine ⟨_, exec_eq_next.2 (runAt_cfgSet hc), ?frame, ?role, ?deviceId, ?peerId, ?datarate, ?minChannel, ?maxChannel, ?period,
      ?oneWayLink, ?ppmOnly, ?ppmSend, ?ppmRecv, ?regenerated, ?kept, ?silent, ?posted⟩
    case frame => rw [hframe]; rfl
    case role =>
      rintro rfl
      obtain ⟨role, hrole, rfl⟩ := Option.map_eq_some_iff.1 hc
      rw [hcfg, roleOfValue_eq_some hrole]
    case deviceId => rintro rfl; cases hc; exact hcfg
    case peerId => rintro rfl; cases hc; exact hcfg
    case datarate =>
      rintro rfl
      obtain ⟨d, hd, rfl⟩ := Option.map_eq_some_iff.1 hc
      rw [hcfg, datarateOfValue_eq_some hd]
    case minChannel | maxChannel =>
      rintro rfl
      obtain ⟨n, hn, rfl⟩ := Option.map_eq_some_iff.1 hc
      rw [hcfg, channelOfValue_eq_some hn]
    case period =>
      rintro rfl
      obtain ⟨period, hperiod, rfl⟩ := Option.map_eq_some_iff.1 hc
      exact ⟨period, hcfg, periodOfValue_eq_some hperiod⟩
    case oneWayLink | ppmOnly | ppmSend | ppmRecv =>
      rintro rfl
      obtain ⟨b, hb, rfl⟩ := Option.map_eq_some_iff.1 hc
      rw [hcfg, flag_of_oneBit hb]
    case regenerated =>
      intro hfield
      obtain ⟨hindex, hmatches⟩ := configured_regenerates (p := Config.params) c s hfield
      rw [hframe]
      exact ⟨hindex, hmatches.congr (by rw [hconf]; rfl) rfl rfl⟩
    case kept =>
      intro hfield
      rw [hframe, configured_of_gt c s hfield]
      exact ⟨rfl, rfl, rfl⟩
    case silent =>
      intro h
      rw [postReinit_silent (by rw [hconf]; exact h), hconf]
      exact ⟨rfl, rfl⟩
    case posted =>
      intro hstarted hroom
      rw [postReinit_posts (by rw [hconf]; exact hstarted) (by rw [hconf]; exact hroom), hconf]
      exact ⟨rfl, rfl⟩

/-! ### Samples and streams (rules R243 to R245) -/

theorem runAt_ppmSet {ch : Nat} (sample : TxSample) (h : ch < p.numPpmCh) :
    runAt p (.ppmSet ch sample) s = .ok { s with ppmTx := s.ppmTx.setIfInBounds ch sample, result := .none } := if_pos h

theorem runAt_ppmGet {ch : Nat} (h : ch < p.numPpmCh) :
    runAt p (.ppmGet ch) s = .ok { s with result := .sample (s.ppmRx.toList.getD ch .timeout) } := if_pos h

theorem runAt_ppmSet_refused {ch : Nat} (sample : TxSample) (h : p.numPpmCh ≤ ch) :
    runAt p (.ppmSet ch sample) s = .error .badOperand := if_neg (Nat.not_lt.2 h)

theorem runAt_ppmGet_refused {ch : Nat} (h : p.numPpmCh ≤ ch) : runAt p (.ppmGet ch) s = .error .badOperand :=
  if_neg (Nat.not_lt.2 h)

/-- Settles O35: the two branches of `PPM.SET` and of `PPM.GET`. -/
theorem ppmSampleFiles : Obligations.PpmSampleFiles := by
  intro ch sample s
  refine ⟨fun hch => ⟨_, exec_eq_next.2 (runAt_ppmSet sample hch), fun i hi => ?stored⟩, fun hfile hch => ?read,
    fun hch => ?refused⟩
  case stored => simp only [Vector.getElem_setIfInBounds, eq_comm (a := ch)]
  case read => rw [exec_eq_next, runAt_ppmGet hch, List.getD_eq_getElem _ _ (by simpa using hfile), Vector.getElem_toList]
  case refused => exact ⟨exec_eq_fault.2 (runAt_ppmSet_refused sample hch), exec_eq_fault.2 (runAt_ppmGet_refused hch)⟩

theorem runAt_streamTx_refused {n : Nat} (data : List Byte) (h : 1 < n) : runAt p (.streamTx n data) s = .error .badOperand := by
  match n, h with
  | _ + 2, _ => rfl

/-- Settles O36: the two streams by definition, and the ids that name none. -/
theorem streamQueueing : Obligations.StreamQueueing :=
  fun data _ => ⟨rfl, rfl, fun _ h => exec_eq_fault.2 (runAt_streamTx_refused data h)⟩

end Sys2Proof.Machine
end

section
/-! SUPPORT. Why an operation with legal operands is refused: only for an unset register, an empty channel table, or a layout that
does not fit (60_exceptions.md rule R271). So a node with all three in order answers, and stays so (70_reset_and_hazards.md rule
R292). -/

namespace Sys2Proof.Machine

variable {p : Params} {s t u : State} {now : Tick} {e : Event} {i : Instr} {α β : Type}

/-! ### The setup: what refusals depend on -/

/-- Two states with the same registers and the same number of channels. -/
structure SameSetup (s t : State) : Prop where
  cfg : t.cfg = s.cfg
  channelCount : t.channelCount = s.channelCount

theorem setup_keptInLoop (s : State) : KeptInLoop p (SameSetup s) where
  touch _ _ h hs := by rw [touch_frame h]; exact ⟨hs.cfg, hs.channelCount⟩
  fault _ f hs := by cases f <;> exact ⟨hs.cfg, hs.channelCount⟩
  move _ _ hs := ⟨hs.cfg, hs.channelCount⟩
  queue _ _ _ _ hs := ⟨hs.cfg, hs.channelCount⟩
  hop _ _ _ _ _ h hs := by rw [hopEval_frame h]; exact ⟨hs.cfg, hs.channelCount⟩

theorem Touch.sameSetup (h : Touch p s t) : SameSetup s t := (setup_keptInLoop s).touch s t h ⟨rfl, rfl⟩

theorem touches_sameSetup (h : Touches p s t) : SameSetup s t := h.keeps (setup_keptInLoop s).touch ⟨rfl, rfl⟩

theorem evStep_sameSetup (h : evStep p e now s = .ok t) : SameSetup s t := evStep_keeps (setup_keptInLoop s).toKept h ⟨rfl, rfl⟩

/-- `CFG.SET` and `CH.GEN` alone change the setup. -/
theorem effect_sameSetup (h : Effect p s u i) (hcfgSet : ∀ field value, i ≠ .cfgSet field value) (hchGen : i ≠ .chGen) :
    SameSetup s u := by
  cases i with
  | cfgSet field value => exact absurd rfl (hcfgSet field value)
  | chGen => exact absurd rfl hchGen
  | ppmSet ch sample => cases h.2; exact ⟨rfl, rfl⟩
  | streamTx streamId data => obtain ⟨id, -, rfl⟩ := h; rw [setTxQueue_frame]; exact ⟨rfl, rfl⟩
  | ppmUnpack bytes withCsum => obtain ⟨f, rfl⟩ := h; exact ⟨rfl, rfl⟩
  | frameBuild => obtain ⟨f, hf⟩ := h; exact (Touch.build f s u hf).sameSetup
  | frameParse len => obtain ⟨f, hf⟩ := h; exact touches_sameSetup (p := p) (frameParse_touches hf)
  | bufPush data => obtain ⟨m, hm, rfl⟩ := h; exact (Touch.push (p := p) m data s hm).sameSetup
  | clkSync => obtain ⟨v, hv⟩ := h; exact (Touch.sync v s u hv).sameSetup
  | hopEval now => obtain ⟨c, changed, hc⟩ := h; exact (setup_keptInLoop s).hop s u now c changed hc ⟨rfl, rfl⟩
  | stPush outcome => obtain ⟨code, rfl⟩ := h; exact ⟨rfl, rfl⟩
  | evPost event => obtain ⟨e, -, rfl⟩ := h; rw [evPost_frame]; exact ⟨rfl, rfl⟩
  | evStep event now => obtain ⟨e, -, he⟩ := h; exact evStep_sameSetup he
  | loopTick now => exact loopTick_keeps (setup_keptInLoop s) h ⟨rfl, rfl⟩
  | init | bufReset | bufPop _ | stContact _ | txnOpen _ | txnClose | statsGet _ _ | stTochk _
  | ppmGet _ | ppmEnc _ | ppmDec _ | ppmPack _ | csum _ | hdrBuild _ _ | hdrParse _ | chAt _ | clkTime _ | slotTurn _
  | stRead | stIsconn | toTxn _ | toSup _ => cases h; exact ⟨rfl, rfl⟩

/-! ### Reasons for a refusal (rule R271) -/

/-- The state gives the reason for a refusal. -/
def ReasonGiven (p : Params) (s : State) : Fault → Prop
  | .configUnset => ¬ Configured s.cfg
  | .noChannels => s.channelCount = 0
  | .configInvalid => ¬ LayoutFits p s.cfg
  | .badOperand | .badOperation => False

theorem ReasonGiven.congr {f : Fault} (h : SameSetup s t) (hf : ReasonGiven p t f) : ReasonGiven p s f := by
  cases f with
  | configUnset => exact (h.cfg ▸ hf : ¬ Configured s.cfg)
  | noChannels => exact h.channelCount.symm.trans hf
  | configInvalid => exact (h.cfg ▸ hf : ¬ LayoutFits p s.cfg)
  | badOperand | badOperation => exact hf

theorem Operational.no_reason (h : Operational p s) (f : Fault) : ¬ ReasonGiven p s f := by
  cases f with
  | configUnset => exact not_not.2 h.configured
  | noChannels => exact h.channels
  | configInvalid => exact not_not.2 h.layout
  | badOperand | badOperation => exact id

theorem Operational.congr (hs : Operational p s) (h : SameSetup s t) : Operational p t :=
  ⟨h.cfg ▸ hs.configured, h.channelCount ▸ hs.channels, h.cfg ▸ hs.layout⟩

/-- Every refusal of `x` is for a reason that the state `s` gives. -/
def Justified (p : Params) (s : State) (x : Except Fault α) : Prop := ∀ f, x = .error f → ReasonGiven p s f

namespace Justified

theorem ok (a : α) : Justified p s (.ok a) := fun _ h => nomatch h

theorem bind {x : Except Fault α} {k : α → Except Fault β} (hx : Justified p s x)
    (hk : ∀ a, x = .ok a → Justified p s (k a)) : Justified p s (x >>= k) := by
  intro f h
  obtain h | ⟨a, ha, h⟩ := bind_eq_error.1 h
  · exact hx f h
  · exact hk a ha f h

/-- Working on an answer refuses nothing more. -/
theorem map {x : Except Fault α} (hx : Justified p s x) (g : α → β) : Justified p s (x >>= fun a => .ok (g a)) :=
  hx.bind fun a _ => ok (g a)

theorem need {o : Option α} (h : Configured s.cfg → o.isSome = true) : Justified p s (need o) := by
  intro f hf
  obtain ⟨rfl, rfl⟩ := need_eq_error.1 hf
  exact fun hc => Bool.false_ne_true (h hc)

theorem noChannels (h : s.channelCount.val = 0) : Justified p s (.error .noChannels : Except Fault α) := by
  intro f hf
  cases hf
  exact Fin.ext h

theorem configInvalid (h : ¬ LayoutFits p s.cfg) : Justified p s (.error .configInvalid : Except Fault α) := by
  intro f hf
  cases hf
  exact h

/-- What is justified after a step that keeps the setup is justified before it. -/
theorem congr {x : Except Fault α} (h : SameSetup s t) (hx : Justified p t x) : Justified p s x := fun f hf => (hx f hf).congr h

end Justified

/-! ### Clock, hop and slot -/

theorem clkTime_justified : Justified p s (clkTime now s) := (Justified.need Configured.role).map _

theorem clkSync_justified : Justified p s (clkSync p s) := by
  refine (Justified.need Configured.role).bind fun role _ => ?_
  cases role with
  | coordinator => exact .ok _
  | peer =>
    dsimp only
    split
    case isTrue hempty => exact .noChannels hempty
    case isFalse =>
      exact (Justified.need Configured.packetPeriodMs).bind fun period _ => (Justified.need Configured.datarate).map _

theorem hopTarget_justified {role : Role} (hne : s.channelCount.val ≠ 0) : Justified p s (hopTarget role now s hne) := by
  unfold hopTarget
  split
  case isTrue => exact .ok _
  case isFalse => exact (Justified.need Configured.packetPeriodMs).map _

theorem hopEval_justified : Justified p s (hopEval p now s) := by
  unfold hopEval
  split
  case isTrue hempty => exact .noChannels hempty
  case isFalse hne => exact (Justified.need Configured.role).bind fun role _ => (hopTarget_justified hne).map _

theorem slotTurn_justified : Justified p s (slotTurn now s) := by
  refine (Justified.need Configured.oneWayLink).bind fun oneWay _ => (Justified.need Configured.role).bind fun role _ => ?_
  split
  case isTrue => exact .ok _
  case isFalse => exact (Justified.need Configured.packetPeriodMs).map _

theorem toTxn_justified : Justified p s (toTxn now s) := by
  unfold toTxn
  split
  case isTrue => exact (Justified.need Configured.packetPeriodMs).map _
  case isFalse => exact .ok _

/-! ### Frames -/

theorem frameParse_justified {len : BitVec 8} : Justified p s (frameParse p len s) := by
  unfold frameParse
  split
  case isTrue => exact .ok _
  case isFalse => exact (Justified.need Configured.ppmOnly).bind fun ppmOnly _ => (Justified.need Configured.ppmRecv).map _

/-- The sub-frame, or nothing, has the length the layout reserves for it (rules R84, R85). -/
theorem subframe_length (p : Params) (tx : Vector TxSample 8) (present withCsum : Bool) :
    (if present then ppmPack p tx withCsum else []).length = subLenOf p present withCsum := by
  cases present with
  | false => rfl
  | true => exact ppmPack_length p tx withCsum

theorem frameBuild_justified : Justified p s (frameBuild p s) := by
  refine (Justified.need Configured.ppmSend).bind fun ppmSend hsend => (Justified.need Configured.ppmOnly).bind fun ppmOnly hmode =>
    (Justified.need Configured.maxPacketLen).bind fun maxLen hmax => ?_
  rw [need_eq_ok] at hsend hmode hmax
  dsimp only
  rw [subframe_length]
  split
  case isTrue honly =>
    subst honly
    split
    case isTrue hfull => exact .configInvalid fun hfits => Nat.not_lt.2 (hfits true ppmSend maxLen hmode hsend hmax) hfull
    case isFalse => exact (Justified.need Configured.peerId).map _
  case isFalse hmux =>
    rw [Bool.not_eq_true] at hmux
    subst hmux
    split
    case isTrue hfull => exact .configInvalid fun hfits => Nat.not_lt.2 (hfits false ppmSend maxLen hmode hsend hmax) hfull
    case isFalse => exact (Justified.need Configured.peerId).map _

/-! ### Entry actions (rules R220 to R224) -/

theorem enterInitializing_justified : Justified p s (enterInitializing s) := by
  have hcalled : SameSetup s (callResetAndIdentify (initBlock s)).2 :=
    touches_sameSetup (p := p) ((Touches.one (.init s)).trans (callResetAndIdentify_touches _))
  unfold enterInitializing
  dsimp only
  split
  case isTrue =>
    exact .congr hcalled ((Justified.need Configured.deviceId).bind fun _ _ =>
      (Justified.need Configured.peerId).bind fun _ _ => (Justified.need Configured.datarate).map _)
  case isFalse => exact .ok _

theorem pullBytes_justified {bytes : List Byte} : Justified p s (pullBytes bytes s) := by
  unfold pullBytes
  split
  case isTrue => exact .ok _
  case isFalse => exact (Justified.need Configured.maxPacketLen).map _

theorem rxValid_justified : Justified p s (rxValid p now s) := by
  refine .congr (Touch.contact (p := p) now s).sameSetup ((Justified.need Configured.role).bind fun role _ => ?_)
  split
  case isTrue => exact clkSync_justified.map _
  case isFalse => exact .ok _

theorem rxDone_justified {len : BitVec 8} : Justified p s (rxDone p now len s) := by
  refine frameParse_justified.bind fun ⟨f, u⟩ hu => ?_
  have hpushed : SameSetup s (stPush f.outcome u) := touches_sameSetup ((frameParse_touches hu).tail (.outcome f.outcome u))
  dsimp only
  split
  case isTrue => exact .congr hpushed (rxValid_justified.map _)
  case isFalse => exact .ok _

theorem onPollRx_justified {answer : RxAnswer} : Justified p s (onPollRx p now answer s) := by
  cases answer with
  | moreDataPending bytes =>
    refine pullBytes_justified.bind fun ⟨fits, u⟩ _ => ?_
    cases fits <;> exact .ok _
  | packetComplete len bytes =>
    refine pullBytes_justified.bind fun ⟨fits, u⟩ hu => ?_
    cases fits with
    | false => exact .ok _
    | true =>
      refine .congr (touches_sameSetup (pullBytes_touches (p := p) hu)) (rxDone_justified.bind fun ⟨f, v⟩ _ => ?_)
      dsimp only
      split <;> exact .ok _
  | fail => exact .ok _

theorem enterRxData_justified : Justified p s (enterRxData p now s) := by
  have hread : SameSetup s (callReadStatus s).2 := touches_sameSetup (p := p) (callReadStatus_touches s)
  unfold enterRxData
  dsimp only
  split
  case isTrue =>
    refine .congr hread ?_
    generalize (callReadStatus s).2 = u
    have hopened : SameSetup u (if u.txnOpen then u else txnOpen now u) := by split <;> exact ⟨rfl, rfl⟩
    exact .congr hopened (.congr (touches_sameSetup (p := p) (callPollRx_touches _)) onPollRx_justified)
  case isFalse => exact .ok _

theorem enterTxStart_justified : Justified p s (enterTxStart p now s) := by
  refine slotTurn_justified.bind fun turn _ => ?_
  split
  case isTrue =>
    refine frameBuild_justified.bind fun ⟨f, u⟩ hu => ?_
    refine .congr (Touch.build f s u hu).sameSetup ((Justified.need Configured.role).bind fun role _ => ?_)
    split <;> exact .ok _
  case isFalse => exact .ok _

theorem entryAction_justified {st : FsmState} : Justified p s (entryAction p now st s) := by
  cases st with
  | initializing => exact enterInitializing_justified
  | rxData => exact enterRxData_justified
  | txStart => exact enterTxStart_justified
  | uninitialized | rxMode | txData | timeout | error | fatalError => exact .ok _

/-! ### Events and the driving loop (rules R213, R216) -/

theorem cascade_justified (n : Nat) (e : Event) (s : State) : Justified p s (cascade p now n e s) := by
  induction n generalizing e s with
  | zero => exact .ok s
  | succ n ih =>
    cases hmove : transition s.fsmState e with
    | none => rw [cascade_none hmove]; exact .ok s
    | some st =>
      rw [cascade_succ hmove]
      refine .bind (.congr ⟨rfl, rfl⟩ entryAction_justified) fun ⟨next, u⟩ hu => ?_
      cases next with
      | none => exact .ok u
      | some e' => exact .congr (entryAction_keeps (setup_keptInLoop s).toKept hu ⟨rfl, rfl⟩) (ih e' u)

theorem evStep_justified : Justified p s (evStep p e now s) := cascade_justified cascadeBound e s

theorem drain_justified (es : List Event) (s : State) : Justified p s (drain p now es s) := by
  induction es generalizing s with
  | nil => exact .ok s
  | cons e es ih =>
    rw [drain_cons]
    split
    case isTrue => exact .congr ⟨rfl, rfl⟩ (ih _)
    case isFalse =>
      exact .congr (t := { s with eventQueue := es, lastEventTimestamp := now }) ⟨rfl, rfl⟩
        (evStep_justified.bind fun u hu => .congr (evStep_sameSetup hu) (ih u))

theorem tickEvents_justified : Justified p s (tickEvents p now s) := by
  unfold tickEvents
  split
  case isTrue => exact .congr ⟨rfl, rfl⟩ (drain_justified _ _)
  case isFalse =>
    split
    case isTrue => exact .congr ⟨rfl, rfl⟩ evStep_justified
    case isFalse => exact .ok s

theorem tickHop_justified : Justified p s (tickHop p now s) := by
  refine hopEval_justified.bind fun ⟨c, changed, u⟩ hu => ?_
  have hhop : SameSetup s u := (setup_keptInLoop s).hop s u now c changed hu ⟨rfl, rfl⟩
  cases changed with
  | false => exact .ok u
  | true => exact .congr hhop (.congr ⟨rfl, rfl⟩ evStep_justified)

theorem tickTxn_justified : Justified p s (tickTxn p now s) := by
  refine toTxn_justified.bind fun expired _ => ?_
  split
  case isTrue => exact evStep_justified
  case isFalse => exact .ok s

theorem tickTurn_justified : Justified p s (tickTurn p now s) := by
  unfold tickTurn
  split
  case isTrue =>
    refine slotTurn_justified.bind fun turn _ => ?_
    split
    case isTrue => exact evStep_justified
    case isFalse => exact .ok s
  case isFalse => exact .ok s

theorem tickEvents_sameSetup (h : tickEvents p now s = .ok t) : SameSetup s t := by
  unfold tickEvents at h
  split at h
  · exact drain_keeps (setup_keptInLoop s) h ⟨rfl, rfl⟩
  · split at h
    · exact evStep_keeps (setup_keptInLoop s).toKept h ⟨rfl, rfl⟩
    · cases h; exact ⟨rfl, rfl⟩

theorem tickHop_sameSetup (h : tickHop p now s = .ok t) : SameSetup s t :=
  tickHop_keeps (setup_keptInLoop s).toKept (fun u v => (setup_keptInLoop s).hop u v now) h ⟨rfl, rfl⟩

theorem tickTxn_sameSetup (h : tickTxn p now s = .ok t) : SameSetup s t :=
  tickTxn_keeps (setup_keptInLoop s).toKept h ⟨rfl, rfl⟩

theorem loopTick_justified : Justified p s (loopTick p now s) := by
  refine tickEvents_justified.bind fun u hu => ?_
  split
  case isTrue =>
    exact .congr (tickEvents_sameSetup hu) (tickHop_justified.bind fun v hv =>
      .congr (tickHop_sameSetup hv) (tickTxn_justified.bind fun w hw => .congr (tickTxn_sameSetup hw) tickTurn_justified))
  case isFalse => exact .ok u

/-! ### Every operation -/

/-- A configured node has every input of its channel table (rule R150). -/
theorem tableInputs_isSome (h : Configured s.cfg) : (tableInputs s.cfg).isSome = true := by
  obtain ⟨role, hrole⟩ := Option.isSome_iff_exists.1 h.role
  obtain ⟨cid, hcid⟩ : ∃ cid, (if role = .coordinator then s.cfg.deviceId else s.cfg.peerId) = some cid := by
    cases role with
    | coordinator => exact Option.isSome_iff_exists.1 h.deviceId
    | peer => exact Option.isSome_iff_exists.1 h.peerId
  obtain ⟨datarate, hrate⟩ := Option.isSome_iff_exists.1 h.datarate
  obtain ⟨minChannel, hmin⟩ := Option.isSome_iff_exists.1 h.minChannel
  obtain ⟨maxChannel, hmax⟩ := Option.isSome_iff_exists.1 h.maxChannel
  rw [tableInputs_of_set hrole hcid hrate hmin hmax]
  rfl

theorem runAt_evStep (p : Params) (e : Event) (now : Tick) (s : State) :
    runAt p (.evStep (eventCode e) now) s = (evStep p e now s >>= fun t => .ok (t.withResult .none)) := by
  cases e <;> rfl

/-- An operation with legal operands is refused only for a reason the state gives. -/
theorem runAt_justified (hwf : i.wf p = true) : Justified p s (runAt p i s) := by
  cases i with
  | cfgSet field value =>
    obtain ⟨c, hc⟩ := writeCfg_of_legal (c := s.cfg) hwf
    rw [runAt_cfgSet hc]
    exact .ok _
  | ppmSet ch sample => rw [runAt_ppmSet sample (of_decide_eq_true hwf)]; exact .ok _
  | ppmGet ch => rw [runAt_ppmGet (of_decide_eq_true hwf)]; exact .ok _
  | streamTx streamId data =>
    match streamId, hwf with
    | 0, _ | 1, _ => exact .ok _
  | ppmUnpack bytes withCsum => rw [runAt_ppmUnpack (of_decide_eq_true hwf)]; exact .ok _
  | csum bytes =>
    have hlen : bytes.length ≤ 255 := of_decide_eq_true hwf
    rw [runAt, runCsum, if_neg (Nat.not_lt.2 hlen)]
    exact .ok _
  | bufPush data =>
    have hlen : 1 ≤ data.length ∧ data.length ≤ 255 := by simpa only [Instr.wf, Bool.and_eq_true, decide_eq_true_eq] using hwf
    rw [runAt, runBufPush, if_neg (by omega)]
    exact (Justified.need Configured.maxPacketLen).map _
  | hdrParse bytes =>
    obtain ⟨b0, b1, b2, b3, len, rfl⟩ := length_eq_five (of_decide_eq_true hwf)
    exact .ok _
  | stPush outcome =>
    match outcome, hwf with
    | 0, _ | 1, _ | 2, _ | 3, _ => exact .ok _
  | evPost event =>
    obtain ⟨e, rfl⟩ := exists_eventCode_eq (of_decide_eq_true hwf)
    rw [runAt_evPost]
    exact .ok _
  | evStep event now =>
    obtain ⟨e, rfl⟩ := exists_eventCode_eq (of_decide_eq_true hwf)
    rw [runAt_evStep]
    exact evStep_justified.map _
  | chAt n =>
    change Justified p s (runChAt n s)
    unfold runChAt
    split
    case isTrue hempty => exact .noChannels hempty
    case isFalse => exact .ok _
  | frameBuild => exact frameBuild_justified.map _
  | frameParse len => exact frameParse_justified.map _
  | chGen => exact (Justified.need tableInputs_isSome).map _
  | clkTime now => exact clkTime_justified.map _
  | clkSync => exact clkSync_justified.map _
  | hopEval now => exact hopEval_justified.map _
  | slotTurn now => exact slotTurn_justified.map _
  | toTxn now => exact toTxn_justified.map _
  | loopTick now => exact loopTick_justified.map _
  | init | statsGet _ _ | ppmEnc _ | ppmDec _ | ppmPack _ | bufReset | bufPop _ | hdrBuild _ _ | stRead | stContact _ | stIsconn
  | stTochk _ | txnOpen _ | txnClose | toSup _ => exact .ok _

/-- Settles O60: no refusal is justified on an operational node, and only `CFG.SET` and `CH.GEN` change what makes it one. -/
theorem operationalNodeAnswers : Obligations.OperationalNodeAnswers := by
  intro p i s hs hwf
  cases hrun : runAt p i s with
  | error f => exact absurd (runAt_justified hwf f hrun) (hs.no_reason f)
  | ok t =>
    refine ⟨t, rfl, fun hcfgSet hchGen => ?_⟩
    obtain ⟨u, r, heffect, rfl⟩ := runAt_effect hrun
    obtain ⟨hcfg, hcount⟩ := effect_sameSetup heffect hcfgSet hchGen
    exact hs.congr (t := u.withResult r) ⟨hcfg, hcount⟩

end Sys2Proof.Machine
end

section
/-! SUPPORT. Every refusal has one of the reasons of 60_exceptions.md rule R271: an operand outside its range, or one that the state
gives. -/

namespace Sys2Proof.Machine

variable {p : Params} {s : State} {i : Instr}

/-! ### Operands outside their range (30_encoding.md rule R95) -/

theorem runAt_ppmUnpack_refused {bytes : List Byte} {w : Bool} (h : bytes.length ≠ subframeLen p w) :
    runAt p (.ppmUnpack bytes w) s = .error .badOperand := if_pos h

theorem runAt_csum_refused {bytes : List Byte} (h : 255 < bytes.length) : runAt p (.csum bytes) s = .error .badOperand := if_pos h

theorem runAt_bufPush_refused {data : List Byte} (h : data.length = 0 ∨ 255 < data.length) :
    runAt p (.bufPush data) s = .error .badOperand := if_pos h

/-- An operation with an operand outside its range is refused in every state. -/
theorem runAt_badOperand (hwf : i.wf p = false) : runAt p i s = .error .badOperand := by
  cases i with
  | cfgSet field value => exact runAt_cfgSet_refused (writeCfg_of_illegal hwf)
  | ppmSet ch sample => exact runAt_ppmSet_refused sample (Nat.not_lt.1 (of_decide_eq_false hwf))
  | ppmGet ch => exact runAt_ppmGet_refused (Nat.not_lt.1 (of_decide_eq_false hwf))
  | streamTx streamId data => exact runAt_streamTx_refused data (Nat.not_le.1 (of_decide_eq_false hwf))
  | ppmUnpack bytes withCsum => exact runAt_ppmUnpack_refused (of_decide_eq_false hwf)
  | csum bytes => exact runAt_csum_refused (Nat.not_le.1 (of_decide_eq_false hwf))
  | bufPush data =>
    have hlen : 1 ≤ data.length → 255 < data.length := by simpa [Instr.wf] using hwf
    exact runAt_bufPush_refused (by omega)
  | hdrParse bytes => exact runHdrParse_of_length_ne (of_decide_eq_false hwf)
  | stPush outcome => exact runAt_stPush_refused (outcomeOfCode_of_gt (Nat.not_le.1 (of_decide_eq_false hwf)))
  | evPost event => exact runAt_evPost_refused (eventOfCode_of_gt (Nat.not_le.1 (of_decide_eq_false hwf)))
  | evStep event now => exact runAt_evStep_refused (eventOfCode_of_gt (Nat.not_le.1 (of_decide_eq_false hwf)))
  | init | statsGet _ _ | ppmEnc _ | ppmDec _ | ppmPack _ | frameBuild | frameParse _ | bufReset | bufPop _ | hdrBuild _ _ | chGen
  | chAt _ | clkTime _ | clkSync | hopEval _ | slotTurn _ | stRead | stContact _ | stIsconn | stTochk _ | txnOpen _ | txnClose
  | toTxn _ | toSup _ | loopTick _ => cases hwf

/-! ### Every operation -/

theorem exec_ne_refused (i : Instr) (s : State) (r : Refusal) : exec i s ≠ .refused r := by
  rw [exec_eq]
  cases runAt Config.params i s with
  | ok t => exact nofun
  | error f => exact nofun

/-- Settles O53: `runAt_badOperand` for an operand outside its range, `runAt_justified` for legal operands. -/
theorem refusalReasons : Obligations.RefusalReasons := by
  intro i s
  refine ⟨fun hwf => exec_eq_fault.2 (runAt_badOperand hwf), fun f hf => ?reason, exec_ne_refused i s⟩
  case reason =>
    have hrun : runAt Config.params i s = .error f := exec_eq_fault.1 hf
    cases hwf : i.wf Config.params with
    | false => exact .inl ⟨(Except.error.inj ((runAt_badOperand hwf).symm.trans hrun)).symm, rfl⟩
    | true =>
      have hreason : ReasonGiven Config.params s f := runAt_justified hwf f hrun
      cases f with
      | configUnset => exact .inr (.inl ⟨rfl, hreason⟩)
      | noChannels => exact .inr (.inr (.inl ⟨rfl, hreason⟩))
      | configInvalid => exact .inr (.inr (.inr ⟨rfl, hreason⟩))
      | badOperand | badOperation => exact hreason.elim

end Sys2Proof.Machine
end

section
/-! SUPPORT. Power-on reset (70_reset_and_hazards.md section 1). -/

namespace Sys2Proof.Machine

variable {p : Params} {s : State}

/-! ### Operations that read an unset register (rule R290) -/

theorem clkSync_unset (h : s.cfg.role = none) : clkSync p s = .error .configUnset :=
  bind_eq_error.2 (.inl (need_eq_error.2 ⟨h, rfl⟩))

/-- The first three registers `FRAME.BUILD` reads; `peerId` it reads after the test of the layout (rule R125). -/
theorem frameBuild_unset (h : s.cfg.ppmSend = none ∨ s.cfg.ppmOnly = none ∨ s.cfg.maxPacketLen = none) :
    frameBuild p s = .error .configUnset := by
  unfold frameBuild
  cases hsend : s.cfg.ppmSend with
  | none => rfl
  | some ppmSend =>
    cases honly : s.cfg.ppmOnly with
    | none => rfl
    | some ppmOnly =>
      have hmax : s.cfg.maxPacketLen = none := by simpa only [hsend, honly, reduceCtorEq, false_or] using h
      rw [hmax]
      rfl

/-- `FRAME.PARSE` reads its registers for the buffer's own length only (rule R130). -/
theorem frameParse_unset (h : s.cfg.ppmOnly = none ∨ s.cfg.ppmRecv = none) :
    frameParse p s.pktLen s = .error .configUnset := by
  rw [frameParse, if_neg (not_not.2 rfl)]
  cases honly : s.cfg.ppmOnly with
  | none => rfl
  | some ppmOnly =>
    have hrecv : s.cfg.ppmRecv = none := by simpa only [honly, reduceCtorEq, false_or] using h
    rw [hrecv]
    rfl

theorem runAt_frameParse_error {len : BitVec 8} {f : Fault} (h : frameParse p len s = .error f) :
    runAt p (.frameParse len) s = .error f :=
  bind_eq_error.2 (.inl h)

/-- With no register set, these four are refused whatever the rest of the state; `FRAME.PARSE` when its length is the buffer's. -/
theorem runAt_of_cfg_unset (hcfg : s.cfg = ConfigRegs.unset) {i : Instr}
    (hi : i ∈ [Instr.chGen, .clkSync, .frameBuild, .frameParse s.pktLen]) : runAt p i s = .error .configUnset := by
  simp only [List.mem_cons, List.not_mem_nil, or_false] at hi
  obtain rfl | rfl | rfl | rfl := hi
  · exact runAt_chGen_unset (by rw [hcfg]; rfl)
  · exact runAt_clkSync_refused (clkSync_unset (by rw [hcfg]; rfl))
  · exact runAt_frameBuild_error (frameBuild_unset (.inl (by rw [hcfg]; rfl)))
  · exact runAt_frameParse_error (frameParse_unset (.inl (by rw [hcfg]; rfl)))

/-- Settles O52: the values are those `State.reset` writes down; the refusals are those of any state with no register set. -/
theorem resetValues : Obligations.ResetValues := by
  refine ⟨rfl, rfl, rfl, rfl, rfl, rfl, rfl, rfl, rfl, rfl, rfl, rfl, rfl, rfl, rfl, rfl, rfl, rfl, rfl, rfl, rfl, rfl, rfl,
    fun now => ⟨?time, ?turn⟩, ?others⟩
  case time => exact exec_eq_fault.2 (runAt_clkTime_refused (clkTime_unset rfl))
  case turn => exact exec_eq_fault.2 (runAt_slotTurn_refused (slotTurn_unset (.inl rfl)))
  case others => exact fun i hi => exec_eq_fault.2 (runAt_of_cfg_unset (s := State.reset) rfl hi)

/-! ### The invariants of the reset state (rules R50, R290) -/

theorem reset_bufferInv : BufferInv State.reset := ⟨rfl, Nat.le_refl 0⟩

/-- The table is empty, and so it must be while its inputs are unset. -/
theorem reset_tableCoherent (p : Params) : TableCoherent p State.reset := emptyTable_tableCoherent rfl rfl rfl

/-- No register is set, so none holds an illegal value. -/
theorem reset_configInv (p : Params) : ConfigInv p State.reset where
  datarate := nofun
  minChannel := nofun
  maxChannel := nofun
  maxPacketLen := rfl

/-- Empty queues keep to any capacity. -/
theorem reset_queueInv (p : Params) : QueueInv p State.reset where
  events := Nat.zero_le _
  signal := rfl
  primary := Nat.zero_le _
  aux := Nat.zero_le _

theorem reset_sequencerInv : SequencerInv State.reset := ⟨rfl, nofun, nofun⟩

/-- Settles O55: each part of the invariant holds of the reset state. -/
theorem resetMeetsInvariants : Obligations.ResetMeetsInvariants := fun p =>
  have htable := reset_tableCoherent p
  { buffer := reset_bufferInv
    table := htable.wellFormed
    matching := htable.matching
    config := reset_configInv p
    queues := reset_queueInv p
    sequencer := reset_sequencerInv }

end Sys2Proof.Machine
end
